-- ==== Sys2Proof/Word.lean ====
section
/-! DEFINITION. The words of the block (00_scope.md R12): a byte, a 32-bit word, a 64-bit frame, a block of two
words, a group of four words, and the 0x412-word table. -/

namespace Sys2Proof

/-- Eight bits (R12). -/
abbrev Byte := BitVec 8

/-- Thirty-two bits (R12). -/
abbrev Word := BitVec 32

/-- Sixty-four bits: an NTR command frame or an NTR seed value (10_state.md R30). -/
abbrev Frame := BitVec 64

/-- The substitution table ("card hash"), exactly 0x412 words (10_state.md R21). -/
abbrev Table := Vector Word 0x412

/-- Two words: `left` is W0 and `right` is W1 (10_state.md R24, 20_memory.md R63). -/
structure Block where
  left : Word
  right : Word
  deriving DecidableEq, Repr, Inhabited

/-- Three words: the counter fields AESIN[12..14] (30_encoding.md R99). -/
structure Trio where
  w0 : Word
  w1 : Word
  w2 : Word
  deriving DecidableEq, Repr, Inhabited

/-- Four words: a CTR command, a key, a ciphertext, a MAC, a session output. -/
structure Quad where
  w0 : Word
  w1 : Word
  w2 : Word
  w3 : Word
  deriving DecidableEq, Repr, Inhabited

end Sys2Proof
end

