-- ==== Sys2Proof/Config.lean ====
section
/-! DEFINITION. The parameters of the block (00_scope.md R10, R11) as plain data, and the uninterpreted constants:
the open parameters that have no default, the configuration functions, and the free values. An `opaque` constant
here has no body, so nothing can be proved of its value. -/

namespace Sys2Proof

/-- A function as plain data: its values at the listed arguments, the first entry for an argument counting, and its
value everywhere else. Every function of a finite type is one (`FnValues.exists_eq`). -/
structure FnValues (α β : Type) where
  listed : List (α × β)
  rest : β
  deriving DecidableEq, Repr

/-- A function that R11 takes as an argument: the spec's general-knowledge default, an uninterpreted constant, or any
function given by its values (log 9). -/
inductive OpenFn (α β : Type) where
  | gkDefault
  | uninterpreted
  | given (f : FnValues α β)
  deriving DecidableEq, Repr

/-- KeyScramble and CcmDecrypt: uninterpreted (44_ctr_aes_session.md R193), the stand-ins for tests of
95_test_vectors.md V14, or any two functions given by their values (log 11). -/
inductive AesEngine where
  | uninterpreted
  | standIn
  | given (scramble : FnValues Quad Quad) (decrypt : FnValues (Quad × Trio × Quad × Quad) (Quad × Bool))
  deriving DecidableEq, Repr

/-- PAGECODE: the hardware code of each of the seven legal page sizes, no two the same (R11, 30_encoding.md R100). -/
structure PageCodes where
  code0 : Word
  code4 : Word
  code64 : Word
  code512 : Word
  code1024 : Word
  code2048 : Word
  code4096 : Word
  distinct : [code0, code4, code64, code512, code1024, code2048, code4096].Nodup
  deriving DecidableEq, Repr

/-- The parameters of R10 and R11. No step writes them and reset does not touch them (70_reset_and_hazards.md R311). -/
structure Config where
  /-- BASE[0] and BASE[1]; `none` is a table not supplied (R140, log 10). -/
  base0 : Option Table
  base1 : Option Table
  ksXorSlots : Nat
  ksScaleAfterPass : Nat
  cntIncAll : Bool
  saLightBlock : Nat
  saFullStart : Nat
  saFullCount : Nat
  opActivateKey1G0 : BitVec 8
  opActivateKey1G1 : BitVec 8
  opActivateSec : BitVec 8
  opSecureChipid : BitVec 8
  opSecureRead : BitVec 8
  opDataMode : BitVec 8
  opDataRead : BitVec 8
  pageCode : PageCodes
  /-- SETTLE_DELAY and RETRY_DELAY in units of ten nanoseconds (log 16). -/
  settleDelay : Nat
  retryDelay : Nat
  /-- POLL_BOUND; `none` is infinity (R294). -/
  pollBound : Option Nat
  /-- SEEDCONST[0] and the bytes after it; SEEDCONST_LEN is positive (R11). -/
  seedConst0 : Byte
  seedConstRest : List Byte
  /-- SeedX and SeedY, with their arguments (R247). -/
  seedXFn : OpenFn (Byte × BitVec 12 × BitVec 12) Frame
  seedYFn : OpenFn Unit Frame
  /-- CMD_CHAL_A, CMD_CHAL_B and CMD_CONFIRM, functions of ch0 and ch1 (R264, R265). -/
  chalAFn : OpenFn (Word × Word) Quad
  chalBFn : OpenFn (Word × Word) Quad
  confirmFn : OpenFn (Word × Word) Quad
  /-- ReadFrame, a function of the address (R250), of 32 bits under every form of it (DESIGN CHOICE, log 34). -/
  readFrameFn : OpenFn Word Frame
  /-- SECKEY_INDEX; `none` takes the default, CAPRESP (46_unlock_sequences.md R261). Its width is not in the source
  (91_not_in_source.md N3): DESIGN CHOICE, a natural number, so that an index of every width is there (log 31). -/
  secKeyIndex : Option Nat
  aesEngine : AesEngine
  /-- VALIDATION_OFFSET, VALIDATION_LEN and SA_OFFSET (R250, R251). An address on the cartridge has no width in R11:
  DESIGN CHOICE, 32 bits, as in ReadFrame's default (log 34). -/
  validationOffset : Word
  validationLen : Nat
  saOffset : Word
  deriving DecidableEq, Repr

/-- FREE VALUE (log 7): what `Draw()` answers when the given draws are used up. -/
opaque Config.freeDraw : Nat → Word
/-- FREE VALUE (log 7): what `PopFifo()` answers when the given FIFO words are used up. -/
opaque Config.freeFifoWord : Nat → Word
/-- FREE VALUE (log 7): byte j of an `NtrSend` answer whose given bytes are used up. -/
opaque Config.freeByte : Nat → Nat → Byte
/-- FREE VALUE (log 21): the word XferWord returns when the transfer ended short (R267). -/
opaque Config.freeXferWord : Nat → Word

/-- BASE[g][i] at `State.reset` (R11: no default; log 10). -/
opaque Config.baseWord : Nat → Nat → Word
/-- SETTLE_DELAY at `State.reset` (R11: OPEN; log 10). -/
opaque Config.openSettleDelay : Nat
/-- RETRY_DELAY at `State.reset` (R11: OPEN; log 10). -/
opaque Config.openRetryDelay : Nat
/-- VALIDATION_OFFSET at `State.reset` (R11: OPEN; log 10). -/
opaque Config.openValidationOffset : Word
/-- VALIDATION_LEN at `State.reset` (R11: OPEN; log 10). -/
opaque Config.openValidationLen : Nat
/-- SA_OFFSET at `State.reset` (R11: OPEN; log 10). -/
opaque Config.openSaOffset : Word
/-- SeedX left uninterpreted (R247, log 9). -/
opaque Config.openSeedX : Byte → BitVec 12 → BitVec 12 → Frame
/-- SeedY left uninterpreted (R247, log 9). -/
opaque Config.openSeedY : Frame
/-- CMD_CHAL_A left uninterpreted (R264, log 9). -/
opaque Config.openCmdChalA : Word → Word → Quad
/-- CMD_CHAL_B left uninterpreted (R264, log 9). -/
opaque Config.openCmdChalB : Word → Word → Quad
/-- CMD_CONFIRM left uninterpreted (R265, log 9). -/
opaque Config.openCmdConfirm : Word → Word → Quad
/-- ReadFrame left uninterpreted (R250, log 9). -/
opaque Config.openReadFrame : Word → Frame
/-- KeyScramble (R193: total, depends on its argument only, nothing else assumed). -/
opaque Config.openKeyScramble : Quad → Quad
/-- CcmDecrypt (R193): key, counter fields, ciphertext, MAC to plaintext and ok; nothing else assumed. -/
opaque Config.openCcmDecrypt : Quad → Trio → Quad → Quad → Quad × Bool

/-- BASE[g] at `State.reset`: supplied, with uninterpreted contents (log 10). -/
def Config.openBase (g : Nat) : Table := Vector.ofFn fun i : Fin 0x412 => Config.baseWord g i.val

/-- The configuration at `State.reset`: R10's defaults (log 8), R11's GK defaults (PRESUMED, log 9), and the
uninterpreted constants for what R11 leaves open without a default (log 10). -/
def Config.initial : Config where
  base0 := some (Config.openBase 0)
  base1 := some (Config.openBase 1)
  ksXorSlots := 0x412
  ksScaleAfterPass := 1
  cntIncAll := false
  saLightBlock := 0
  saFullStart := 1
  saFullCount := 0x200
  opActivateKey1G0 := 0x3C
  opActivateKey1G1 := 0x3D
  opActivateSec := 0x40
  opSecureChipid := 0x10
  opSecureRead := 0x20
  opDataMode := 0xA0
  opDataRead := 0xB7
  pageCode := ⟨0, 1, 3, 4, 5, 6, 7, by decide⟩
  settleDelay := Config.openSettleDelay
  retryDelay := Config.openRetryDelay
  pollBound := none
  seedConst0 := 0xE8
  seedConstRest := [0x4D, 0x5A, 0xB1, 0x17, 0x8F, 0x99, 0xD5]
  seedXFn := .gkDefault
  seedYFn := .gkDefault
  chalAFn := .gkDefault
  chalBFn := .gkDefault
  confirmFn := .gkDefault
  readFrameFn := .gkDefault
  secKeyIndex := none
  aesEngine := .uninterpreted
  validationOffset := Config.openValidationOffset
  validationLen := Config.openValidationLen
  saOffset := Config.openSaOffset

end Sys2Proof
end

