-- ==== Sys2Proof/Syntax.lean ====
section
/-! DEFINITION. The instructions: one constructor for each row of the opcode table (30_encoding.md R92, R97, R103).
One-bit operands (`gen`, `stage`, `dev`, `dv`) are `BitVec 1`, as R91 gives them. -/

namespace Sys2Proof

/-- One constructor per row of the opcode table. -/
inductive Instr where
  /-- K1.ENC: forward pass (R122). -/
  | k1Enc (w0 w1 : Word)
  /-- K1.DEC: reverse pass (R123). -/
  | k1Dec (w0 w1 : Word)
  /-- KS.INIT: derive the table and the key code (R140). -/
  | ksInit (code : Word) (stage gen : BitVec 1)
  /-- SES.SEED: draw the six session fields (R160). -/
  | sesSeed
  /-- CMD.ACTKEY1: build the unencrypted activate-key1 frame (R161). -/
  | cmdActkey1 (gen : BitVec 1)
  /-- CMD.BUILD: pack one command frame and forward-cipher it (R162). -/
  | cmdBuild (op : BitVec 8) (blk : BitVec 16)
  /-- SA.DECRYPT: decrypt the secure-area buffer in place (R180). -/
  | saDecrypt (code : Word) (gen : BitVec 1)
  /-- AES.SESSION: derive the session key (R190). -/
  | aesSession (dev : BitVec 1)
  /-- CTR.XFER: send one command and receive its data (R210). -/
  | ctrXfer (c0 c1 c2 c3 pagesize blocks : Word) (dv : BitVec 1) (dest : Word)
  /-- NTR.UNLOCK: the NTR unlock sequence (R240). -/
  | ntrUnlock (gen : BitVec 1)
  /-- CTR.UNLOCK: the CTR secure handshake (R260). -/
  | ctrUnlock (dev : BitVec 1)
  /-- CMD.ACTSEC: the word of CMD.BUILD 0x40, 0 (R103). -/
  | cmdActsec
  /-- CMD.CHIPID: the word of CMD.BUILD 0x10, 0 (R103). -/
  | cmdChipid
  /-- CMD.SECREAD: the word of CMD.BUILD 0x20, blk (R103). -/
  | cmdSecread (blk : BitVec 16)
  /-- CMD.DATAMODE: the word of CMD.BUILD 0xA0, 0 (R103). -/
  | cmdDatamode
  /-- KS.LIGHT: KS.INIT code, LIGHT, gen (R103). -/
  | ksLight (code : Word) (gen : BitVec 1)
  /-- KS.FULL: KS.INIT code, FULL, gen (R103). -/
  | ksFull (code : Word) (gen : BitVec 1)
  /-- CTR.SEND: CTR.XFER c0:c1:c2:c3, 0, 1, NULL; the word keeps the `dest` bits that dv = 0 makes ignored (R103). -/
  | ctrSend (c0 c1 c2 c3 dest : Word)
  /-- FRAME.ACTIVATE_KEY1.G0: the unencrypted activate-key1 frame of gen = 0 (R95, R161). -/
  | frameActivateKey1G0 (p q : BitVec 12) (c : BitVec 20) (e : BitVec 8)
  /-- FRAME.ACTIVATE_KEY1.G1: the unencrypted activate-key1 frame of gen = 1 (R95, R161). -/
  | frameActivateKey1G1 (p q : BitVec 12) (c : BitVec 20) (e : BitVec 8)
  /-- FRAME.ACTIVATE_SEC: the PFRAME of an activate-secure command (R94, R97). -/
  | frameActivateSec (b : BitVec 16) (p q : BitVec 12) (c : BitVec 20)
  /-- FRAME.SECURE_CHIPID: the PFRAME of a secure chip id command (R94, R97). -/
  | frameSecureChipid (b : BitVec 16) (p q : BitVec 12) (c : BitVec 20)
  /-- FRAME.SECURE_READ: the PFRAME of a secure read command (R94, R97). -/
  | frameSecureRead (b : BitVec 16) (p q : BitVec 12) (c : BitVec 20)
  /-- FRAME.DATA_MODE: the PFRAME of an enter data mode command (R94, R97). -/
  | frameDataMode (b : BitVec 16) (p q : BitVec 12) (c : BitVec 20)
  /-- FRAME.DATA_READ: the unencrypted sector-read frame ReadFrame(a) (R250). -/
  | frameDataRead (a : Word)
  deriving DecidableEq, Repr

end Sys2Proof
end

