-- ==== Sys2Proof/WellFormed.lean ====
section
/-! DEFINITION. Well-formed instructions. Every operand has exactly the width R91 gives it, and every value of it is
legal (30_encoding.md R105), so what is left to check is the spelling: one word has one well-formed instruction
(log 13). A CMD.BUILD or CTR.XFER whose word is a pseudo-operation's row is written as that pseudo-operation;
KS.LIGHT and KS.FULL, whose rows together are all of KS.INIT's words, are written as KS.INIT. -/

namespace Sys2Proof

/-- Whether `CMD.BUILD op, blk` is the word of one of the four CMD pseudo-operation rows (R103). -/
def isCmdPseudo (op : BitVec 8) (blk : BitVec 16) : Bool :=
  op == 0x20#8 || ((op == 0x40#8 || op == 0x10#8 || op == 0xA0#8) && blk == 0#16)

/-- Whether CTR.XFER with these operands is a word of the CTR.SEND row: page size 0, one block, NULL (R103). -/
def isCtrSend (pagesize blocks : Word) (dv : BitVec 1) : Bool :=
  pagesize == 0#32 && blocks == 1#32 && dv == 0#1

/-- The instruction is the one the decoder reads from its own word. -/
def Instr.wellFormed : Instr → Bool
  | .cmdBuild op blk => !isCmdPseudo op blk
  | .ctrXfer _ _ _ _ pagesize blocks dv _ => !isCtrSend pagesize blocks dv
  | .ksLight _ _ => false
  | .ksFull _ _ => false
  | .k1Enc _ _ => true
  | .k1Dec _ _ => true
  | .ksInit _ _ _ => true
  | .sesSeed => true
  | .cmdActkey1 _ => true
  | .saDecrypt _ _ => true
  | .aesSession _ => true
  | .ntrUnlock _ => true
  | .ctrUnlock _ => true
  | .cmdActsec => true
  | .cmdChipid => true
  | .cmdSecread _ => true
  | .cmdDatamode => true
  | .ctrSend _ _ _ _ _ => true
  | .frameActivateKey1G0 _ _ _ _ => true
  | .frameActivateKey1G1 _ _ _ _ => true
  | .frameActivateSec _ _ _ _ => true
  | .frameSecureChipid _ _ _ _ => true
  | .frameSecureRead _ _ _ _ => true
  | .frameDataMode _ _ _ _ => true
  | .frameDataRead _ => true

end Sys2Proof
end

