-- ==== Sys2Proof/Decode.lean ====
section
/-! DEFINITION. The decoder and the encoder. An operation request is a bit string whose top eight bits are OPSEL and
whose width OPSEL alone tells (30_encoding.md R90, R91, R104); every other OPSEL, every nonzero must-be-zero bit and
every other width is rejected by name (R93). The opcode table's NTRFRAME rows are no requests: they are 64-bit frames
(R94, R95, R97), read by a decoder of their own (log 14). -/

namespace Sys2Proof

/-- A bit string as the host hands it over (R90): its width and its bits as one number, bit 0 least significant (R12). -/
structure Request where
  nbits : Nat
  bits : Nat
  deriving DecidableEq, Repr

/-- Why a bit string is no instruction. -/
inductive Reject where
  /-- The width is not the one OPSEL tells (R104), or the number does not fit the width. -/
  | width
  /-- A reserved OPSEL (R93). -/
  | opsel
  /-- A nonzero must-be-zero bit (R93). -/
  | reservedBits
  /-- A 64-bit string that matches no NTRFRAME row (R97). -/
  | frame
  deriving DecidableEq, Repr

/-- Bits `lo` and up of a bit string, `len` of them (R12). -/
def field {n : Nat} (v : BitVec n) (lo len : Nat) : BitVec len := v.extractLsb' lo len

/-- Accept `i` when the must-be-zero bits are zero (R93). -/
def unlessReserved {n : Nat} (mbz : BitVec n) (i : Instr) : Except Reject Instr :=
  if mbz = 0 then .ok i else .error .reservedBits

/-- CMD.BUILD's words, those of the four CMD pseudo rows as the pseudo-operation (R103, log 13). -/
def readCmdBuild (op : BitVec 8) (blk : BitVec 16) : Instr :=
  if op = 0x20#8 then .cmdSecread blk
  else if op = 0x40#8 ∧ blk = 0#16 then .cmdActsec
  else if op = 0x10#8 ∧ blk = 0#16 then .cmdChipid
  else if op = 0xA0#8 ∧ blk = 0#16 then .cmdDatamode
  else .cmdBuild op blk

/-- CTR.XFER's words, those of the CTR.SEND row as CTR.SEND (R103, log 13). -/
def readCtrXfer (c0 c1 c2 c3 pagesize blocks : Word) (dv : BitVec 1) (dest : Word) : Instr :=
  if isCtrSend pagesize blocks dv then .ctrSend c0 c1 c2 c3 dest
  else .ctrXfer c0 c1 c2 c3 pagesize blocks dv dest

/-- Format B (R91): sel, w1, w0. -/
def readB (v : BitVec 72) (mk : Word → Word → Instr) : Except Reject Instr :=
  .ok (mk (field v 0 32) (field v 32 32))

/-- Formats G and A (R91): sel, seven zero bits, one operand bit. -/
def readBit (v : BitVec 16) (mk : BitVec 1 → Instr) : Except Reject Instr :=
  unlessReserved (field v 1 7) (mk (field v 0 1))

/-- Format K (R91): sel, six zero bits, gen, stage, code. -/
def readK (v : BitVec 48) : Except Reject Instr :=
  unlessReserved (field v 34 6) (.ksInit (field v 0 32) (field v 32 1) (field v 33 1))

/-- Format S (R91): sel, seven zero bits, gen, code. -/
def readS (v : BitVec 48) : Except Reject Instr :=
  unlessReserved (field v 33 7) (.saDecrypt (field v 0 32) (field v 32 1))

/-- Format C (R91): sel, op, blk. -/
def readC (v : BitVec 32) : Except Reject Instr :=
  .ok (readCmdBuild (field v 16 8) (field v 0 16))

/-- Format X (R91): sel, c0, c1, c2, c3, pagesize, blocks, seven zero bits, dv, dest. -/
def readX (v : BitVec 240) : Except Reject Instr :=
  unlessReserved (field v 33 7)
    (readCtrXfer (field v 200 32) (field v 168 32) (field v 136 32) (field v 104 32) (field v 72 32) (field v 40 32)
      (field v 32 1) (field v 0 32))

/-- Accept only the width that OPSEL tells (R104). -/
def ofWidth (n : Nat) (r : Request) (read : BitVec n → Except Reject Instr) : Except Reject Instr :=
  if r.nbits = n then read (BitVec.ofNat n r.bits) else .error .width

/-- The operation map (R92) on the OPSEL value. -/
def decodeOp (opsel : Nat) (r : Request) : Except Reject Instr :=
  if opsel = 0x10 then ofWidth 72 r (readB · .k1Enc)
  else if opsel = 0x11 then ofWidth 72 r (readB · .k1Dec)
  else if opsel = 0x20 then ofWidth 48 r readK
  else if opsel = 0x30 then ofWidth 8 r (fun _ => .ok .sesSeed)
  else if opsel = 0x31 then ofWidth 16 r (readBit · .cmdActkey1)
  else if opsel = 0x32 then ofWidth 32 r readC
  else if opsel = 0x40 then ofWidth 48 r readS
  else if opsel = 0x50 then ofWidth 16 r (readBit · .aesSession)
  else if opsel = 0x60 then ofWidth 240 r readX
  else if opsel = 0x70 then ofWidth 16 r (readBit · .ntrUnlock)
  else if opsel = 0x71 then ofWidth 16 r (readBit · .ctrUnlock)
  else .error .opsel

/-- The NTRFRAME rows of the opcode table on a 64-bit frame (R94, R95, R97, R250). -/
def decodeFrame (v : Frame) : Except Reject Instr :=
  let byte := field v 56 8
  let nibble := field v 60 4
  if byte = 0x3C#8 then
    unlessReserved (field v 28 4) (.frameActivateKey1G0 (field v 44 12) (field v 32 12) (field v 8 20) (field v 0 8))
  else if byte = 0x3D#8 then
    unlessReserved (field v 28 4) (.frameActivateKey1G1 (field v 44 12) (field v 32 12) (field v 8 20) (field v 0 8))
  else if byte = 0xB7#8 then
    unlessReserved (field v 0 24) (.frameDataRead (field v 24 32))
  else if nibble = 0x4#4 then
    .ok (.frameActivateSec (field v 44 16) (field v 32 12) (field v 20 12) (field v 0 20))
  else if nibble = 0x1#4 then
    .ok (.frameSecureChipid (field v 44 16) (field v 32 12) (field v 20 12) (field v 0 20))
  else if nibble = 0x2#4 then
    .ok (.frameSecureRead (field v 44 16) (field v 32 12) (field v 20 12) (field v 0 20))
  else if nibble = 0xA#4 then
    .ok (.frameDataMode (field v 44 16) (field v 32 12) (field v 20 12) (field v 0 20))
  else .error .frame

/-- The decoder of operation requests, total on every bit string: it reads an operation or rejects by name (R90, R93,
R104). -/
def decodeRequest (r : Request) : Except Reject Instr :=
  if 2 ^ r.nbits ≤ r.bits ∨ r.nbits < 8 then .error .width
  else decodeOp (r.bits >>> (r.nbits - 8)) r

/-- The decoder of the opcode table's rows: a 64-bit string, the width of no request, is a frame (R91, R97, log 14). -/
def decode (r : Request) : Except Reject Instr :=
  if r.nbits = 64 then
    if 2 ^ 64 ≤ r.bits then .error .width else decodeFrame (BitVec.ofNat 64 r.bits)
  else decodeRequest r

/-- The instruction the decoder reads from the bits numbered as the opcode table numbers them. An instruction has no
bits above its row's width. -/
def decodeTableWord (nbits w : Nat) : Option Instr :=
  match decode ⟨nbits, w⟩ with
  | .ok i => some i
  | .error _ => none

/-- A bit vector as a request of its width. -/
def asRequest {n : Nat} (v : BitVec n) : Request := ⟨n, v.toNat⟩

/-- Format X's bits (R91). -/
def wordX (c0 c1 c2 c3 pagesize blocks : Word) (dv : BitVec 1) (dest : Word) : BitVec 240 :=
  0x60#8 ++ c0 ++ c1 ++ c2 ++ c3 ++ pagesize ++ blocks ++ 0#7 ++ dv ++ dest

/-- The bits of an activate-key1 frame (R95). -/
def wordActKey1 (op : BitVec 8) (p q : BitVec 12) (c : BitVec 20) (e : BitVec 8) : Frame :=
  op ++ p ++ q ++ 0#4 ++ c ++ e

/-- The bits of an NTRFRAME row whose opcode nibble is `op`: b, p, q, c below it (R94). -/
def wordFrame (op : BitVec 4) (b : BitVec 16) (p q : BitVec 12) (c : BitVec 20) : Frame :=
  op ++ b ++ p ++ q ++ c

/-- The encoder: the bit string of an instruction, from the formats of R91 and the rows of R92, R97 and R103. -/
def encode : Instr → Request
  | .k1Enc w0 w1 => asRequest (0x10#8 ++ w1 ++ w0)
  | .k1Dec w0 w1 => asRequest (0x11#8 ++ w1 ++ w0)
  | .ksInit code stage gen => asRequest (0x20#8 ++ 0#6 ++ gen ++ stage ++ code)
  | .sesSeed => asRequest 0x30#8
  | .cmdActkey1 gen => asRequest (0x31#8 ++ 0#7 ++ gen)
  | .cmdBuild op blk => asRequest (0x32#8 ++ op ++ blk)
  | .saDecrypt code gen => asRequest (0x40#8 ++ 0#7 ++ gen ++ code)
  | .aesSession dev => asRequest (0x50#8 ++ 0#7 ++ dev)
  | .ctrXfer c0 c1 c2 c3 pagesize blocks dv dest => asRequest (wordX c0 c1 c2 c3 pagesize blocks dv dest)
  | .ntrUnlock gen => asRequest (0x70#8 ++ 0#7 ++ gen)
  | .ctrUnlock dev => asRequest (0x71#8 ++ 0#7 ++ dev)
  | .cmdActsec => asRequest 0x32400000#32
  | .cmdChipid => asRequest 0x32100000#32
  | .cmdSecread blk => asRequest (0x3220#16 ++ blk)
  | .cmdDatamode => asRequest 0x32A00000#32
  | .ksLight code gen => asRequest (0x20#8 ++ 0#6 ++ gen ++ 0#1 ++ code)
  | .ksFull code gen => asRequest (0x20#8 ++ 0#6 ++ gen ++ 1#1 ++ code)
  | .ctrSend c0 c1 c2 c3 dest => asRequest (wordX c0 c1 c2 c3 0 1 0 dest)
  | .frameActivateKey1G0 p q c e => asRequest (wordActKey1 0x3C#8 p q c e)
  | .frameActivateKey1G1 p q c e => asRequest (wordActKey1 0x3D#8 p q c e)
  | .frameActivateSec b p q c => asRequest (wordFrame 0x4#4 b p q c)
  | .frameSecureChipid b p q c => asRequest (wordFrame 0x1#4 b p q c)
  | .frameSecureRead b p q c => asRequest (wordFrame 0x2#4 b p q c)
  | .frameDataMode b p q c => asRequest (wordFrame 0xA#4 b p q c)
  | .frameDataRead a => asRequest (0xB7#8 ++ a ++ 0#24)

/-- The one well-formed spelling of an instruction's word (R103, log 13). -/
def Instr.canonical : Instr → Instr
  | .cmdBuild op blk => readCmdBuild op blk
  | .ctrXfer c0 c1 c2 c3 pagesize blocks dv dest => readCtrXfer c0 c1 c2 c3 pagesize blocks dv dest
  | .ksLight code gen => .ksInit code 0 gen
  | .ksFull code gen => .ksInit code 1 gen
  | .k1Enc w0 w1 => .k1Enc w0 w1
  | .k1Dec w0 w1 => .k1Dec w0 w1
  | .ksInit code stage gen => .ksInit code stage gen
  | .sesSeed => .sesSeed
  | .cmdActkey1 gen => .cmdActkey1 gen
  | .saDecrypt code gen => .saDecrypt code gen
  | .aesSession dev => .aesSession dev
  | .ntrUnlock gen => .ntrUnlock gen
  | .ctrUnlock dev => .ctrUnlock dev
  | .cmdActsec => .cmdActsec
  | .cmdChipid => .cmdChipid
  | .cmdSecread blk => .cmdSecread blk
  | .cmdDatamode => .cmdDatamode
  | .ctrSend c0 c1 c2 c3 dest => .ctrSend c0 c1 c2 c3 dest
  | .frameActivateKey1G0 p q c e => .frameActivateKey1G0 p q c e
  | .frameActivateKey1G1 p q c e => .frameActivateKey1G1 p q c e
  | .frameActivateSec b p q c => .frameActivateSec b p q c
  | .frameSecureChipid b p q c => .frameSecureChipid b p q c
  | .frameSecureRead b p q c => .frameSecureRead b p q c
  | .frameDataMode b p q c => .frameDataMode b p q c
  | .frameDataRead a => .frameDataRead a

end Sys2Proof
end

