-- ==== Sys2Proof/Machine/State.lean ====
section
/-! DEFINITION. The state of the block as plain data (10_state.md R20), the events it raises (60_exceptions.md R280),
and the state after reset (10_state.md R40). -/

namespace Sys2Proof.Machine

/-- A register with the bookkeeping R41 asks for: `written` says whether anything has written it since reset. -/
structure Reg (α : Type) where
  val : α
  written : Bool
  deriving DecidableEq, Repr

/-- A register that something has written. -/
def Reg.holding {α : Type} (v : α) : Reg α := ⟨v, true⟩

/-- A register after reset: no value (R40); the stored value is DESIGN CHOICE, log 2. -/
def Reg.unwritten {α : Type} (v : α) : Reg α := ⟨v, false⟩

/-- PHASE, the state of the NTR unlock state machine (R34). -/
inductive Phase where
  | raw
  | keyedRandom
  | secureKeyed
  | dataMode
  | reading
  deriving DecidableEq, Repr

/-- SES, the command session state (R28). -/
structure Session where
  p0 : BitVec 12
  p1 : BitVec 12
  cnt : BitVec 20
  blki : BitVec 16
  q0 : BitVec 12
  q1 : BitVec 12
  deriving DecidableEq, Repr

/-- K, the key-code array (R22). -/
structure KeyCode where
  k0 : Word
  k1 : Word
  k2 : Word
  deriving DecidableEq, Repr

/-- The result of a key schedule: T and K (R21, R22). -/
structure Schedule where
  t : Table
  k : KeyCode
  deriving DecidableEq, Repr

/-- Unit U1: T, K, TVALID and BLK (R21 to R24). -/
structure CipherUnit where
  sched : Schedule
  tvalid : Bool
  blk0 : Reg Word
  blk1 : Reg Word
  deriving DecidableEq, Repr

/-- Unit U2: SES, SVALID, PFRAME, EFRAME (R28 to R30). -/
structure CommandUnit where
  ses : Session
  svalid : Bool
  pframe : Reg Frame
  eframe : Reg Frame
  deriving DecidableEq, Repr

/-- Unit U3: the secure-area buffer, 0x1000 words (R42). -/
abbrev Area := Vector (Reg Word) 0x1000

/-- Unit U4: AESIN, AESOUT, MACV (R31, R32). -/
structure AesUnit where
  aesin : Vector (Reg Word) 15
  aesout : Reg Quad
  macv : Bool
  deriving DecidableEq, Repr

/-- Unit U5: the transfer registers (R33). -/
structure TransportUnit where
  ccmd : Reg Quad
  xpage : Reg Word
  xcode : Reg Word
  xblocks : Reg Word
  xlen : Reg Word
  xcnt : Reg Word
  deriving DecidableEq, Repr

/-- The sequencing state and flags (R34, R35, R43). -/
structure Sequencer where
  phase : Phase
  secid : Reg Word
  resp0 : Reg Word
  resp1 : Reg Word
  smallgeo : Bool
  idMismatch : Bool
  respMismatch : Bool
  deriving DecidableEq, Repr

/-- The read-only inputs (R36); HDR.TIMING and HDR.SEEDIDX are unsigned integers of unstated width (U17). -/
structure Inputs where
  gamecode : Reg Word
  timing : Reg Nat
  seedidx : Reg Nat
  idword : Reg Word
  capresp : Reg Word
  deriving DecidableEq, Repr

/-- Host memory: (address, byte) pairs, addresses strictly rising; an unlisted byte has no value (log 12). -/
abbrev Memory := List Host.Cell

/-- One answer of `Status()` (00_scope.md R16). -/
structure Sample where
  busy : Bool
  ready : Bool
  deriving DecidableEq, Repr

/-- One answer of `NtrSend`: after how many unsuccessful samples of its busy flag it comes (`none`: the flag never
clears), and the response bytes (46_unlock_sequences.md R243; log 19). -/
structure NtrReply where
  polls : Option Nat
  bytes : List Byte
  deriving DecidableEq, Repr

/-- The oracle (R37): the answers it will give, oldest first (log 5, log 6, log 7). -/
structure Env where
  /-- The answers of `Draw()`. -/
  draws : List Word
  /-- The answers of `Status()`, and the answer it gives ever after. -/
  status : List Sample
  statusRest : Sample
  /-- The answers of `PopFifo()`. -/
  fifo : List Word
  /-- The answers of `NtrSend`, and the polls of every later one. -/
  replies : List NtrReply
  replyRest : Option Nat
  /-- The polls of the completion waits of the AES engine, `CtrSecKey` and `CtrSecSeed` in the order they happen, and
  those of every later one; `none` never completes. -/
  accepts : List (Option Nat)
  acceptRest : Option Nat
  /-- The counter of the free values. -/
  freeCtr : Nat
  deriving DecidableEq, Repr

/-- What has been programmed into the devices: the hidden state (b) and (e) of R38 (log 17). The secure-key index is a
natural number: no width is in the source (91_not_in_source.md N3; DESIGN CHOICE, log 31). -/
structure Devices where
  seedX : Frame
  seedY : Frame
  key2On : Bool
  secKey : Nat
  secSeed : Quad
  deriving DecidableEq, Repr

/-- A call made to the environment (R16, R292), with its arguments. Delays are in units of ten nanoseconds (log 16);
the secure-key index has no stated width (log 31). -/
inductive EnvCall where
  | ntrSend (frame : Frame) (n : Nat)
  | seedWrite (x y : Frame)
  | ctrCmdWrite (c : Quad)
  | ctrStart (code blocks : Word)
  | ctrDeactivate
  | ctrSecKey (v : Nat)
  | ctrSecSeed (s : Quad)
  | delay (t : Nat)
  | keyScramble (k : Quad)
  | ccmDecrypt (key : Quad) (counter : Trio) (ct mac : Quad)
  deriving DecidableEq, Repr

/-- The waits of the block (20_memory.md R73). -/
inductive Wait where
  | ntrSend
  | pollLoop
  | epilogue
  | finalWait
  | aesEngine
  | ctrSecKey
  | ctrSecSeed
  deriving DecidableEq, Repr

/-- The fields of SES (R28). -/
inductive SesField where
  | p0
  | p1
  | cnt
  | blki
  | q0
  | q1
  deriving DecidableEq, Repr

/-- The read ports: every element that R20 marks R. -/
inductive Port where
  | t (i : Fin 0x412)
  | k (i : Fin 3)
  | tvalid
  | blk (i : Fin 2)
  | ses (f : SesField)
  | svalid
  | pframe
  | eframe
  | sa (i : Fin 0x1000)
  | aesin (i : Fin 15)
  | aesout (i : Fin 4)
  | macv
  | ccmd (i : Fin 4)
  | xpage
  | xcode
  | xblocks
  | xlen
  | xcnt
  | phase
  | secid
  | resp (i : Fin 2)
  | smallgeo
  | idMismatch
  | respMismatch
  deriving DecidableEq, Repr

/-- What E_UNINIT names: T and K, SES, a port's element, or an input (R295). -/
inductive Element where
  | table
  | session
  | port (p : Port)
  | gamecode
  | timing
  | seedidx
  | idword
  | capresp
  deriving DecidableEq, Repr

/-- The events that return control in place of the response record (R286, R287). -/
inductive Event where
  /-- E_UNINIT: state that nothing has written was read (R295). -/
  | uninit (e : Element)
  /-- E_POLLBOUND: a wait reached the finite POLL_BOUND (R294). -/
  | pollBound (w : Wait)
  deriving DecidableEq, Repr

/-- How an operation ends before its last statement: with an event, never (R281), or because the external reset
arrives (70_reset_and_hazards.md R310). -/
inductive Stop where
  | event (e : Event)
  | hang (w : Wait)
  | reset
  deriving DecidableEq, Repr

/-- The six events of R280. -/
inductive EventName where
  | hang
  | mismatch
  | clamp
  | pollBound
  | uninit
  | refusal
  deriving DecidableEq, Repr

/-- An entry of the log output (R283). -/
inductive LogEntry where
  | mismatchMac
  | mismatchChipid (expected got : Word)
  | mismatchResponse (index : Nat) (expected got : Word)
  | validation (bytes : List Byte)
  deriving DecidableEq, Repr

/-- The response record of an operation (R101), the answer of a read port (R26), or the event in its place (R287). -/
inductive Response where
  /-- No record: KS.INIT, SES.SEED, SA.DECRYPT, NTR.UNLOCK, CTR.UNLOCK. -/
  | done
  | block (r0 r1 : Word)
  | frame (r : Frame)
  | session (q : Quad) (v : Bool)
  | count (n : Word)
  /-- The bytes a FRAME.DATA_READ (log 15) or a host's own NtrSend (log 33) brought. -/
  | bytes (b : List Byte)
  /-- The log output, as the host reads it (60_exceptions.md R283, log 27). -/
  | log (entries : List LogEntry)
  | port (v : Nat)
  | fault (e : Event)
  deriving DecidableEq, Repr

/-- A primitive that a host driving the units itself calls between operations (42_ntr_command.md R168,
46_unlock_sequences.md R253, 70_reset_and_hazards.md R312, R313). By what means it does so the spec leaves open:
DESIGN CHOICE, log 33. -/
inductive HostCall where
  /-- `NtrSend(EFRAME, n)`: transmit the frame built last (R168, R243). -/
  | sendEframe (n : Nat)
  /-- `NtrSend(ReadFrame(a), n)`: a sector read of the host's own length, whatever ReadFrame is (R250, R251). -/
  | readSector (a : Word) (n : Nat)
  /-- `SeedWrite(x, y)` (R247). -/
  | seedWrite (x y : Frame)
  /-- `CtrSecKey(v)` (R261). -/
  | ctrSecKey (v : Nat)
  /-- `CtrSecSeed(s0, s1, s2, s3)` (R261). -/
  | ctrSecSeed (q : Quad)
  /-- `Delay(t)` (R246, R266). -/
  | delay (t : Nat)
  deriving DecidableEq, Repr

/-- What the host asks the block to carry out. -/
inductive Operation where
  /-- An operation request (30_encoding.md R90). -/
  | request (r : Request)
  /-- A frame of the opcode table's NTRFRAME rows, named by a host that drives the units itself (R97, R253; log 14). -/
  | frame (f : Frame)
  /-- A primitive called by a host that drives the units itself (R168, R253; log 33). -/
  | call (c : HostCall)
  deriving DecidableEq, Repr

/-- What the host and its collaborators can do, one at a time (R26, R36, R310; log 1, log 27). -/
inductive HostEvent where
  /-- An operation request (30_encoding.md R90). -/
  | request (r : Request)
  /-- A frame of the opcode table's NTRFRAME rows (R97, R253; log 14). -/
  | frame (f : Frame)
  /-- A primitive called by hand (R168, R253; log 33). -/
  | call (c : HostCall)
  | writeSa (i : Fin 0x1000) (w : Word)
  | writeAesin (i : Fin 15) (w : Word)
  | writeGamecode (w : Word)
  | writeTiming (n : Nat)
  | writeSeedidx (n : Nat)
  | writeIdword (w : Word)
  | writeCapresp (w : Word)
  | readPort (p : Port)
  /-- The host reads the log output (60_exceptions.md R283; log 27). -/
  | readLog
  /-- The external reset, between operations or in a hang; `e` is the oracle from then on (R310, R311; log 25). -/
  | reset (e : Env)
  /-- Something to carry out, and the external reset arriving in the middle of it: after `after` of its effects that a
  reset does not undo (R285, R310; log 25). `e` is the oracle from then on (R311). -/
  | cut (o : Operation) (after : Nat) (e : Env)
  deriving DecidableEq, Repr

/-- Everything the spec gives the machine (R20), its parameters, the oracle and the host's side. -/
structure State where
  cfg : Config
  cipher : CipherUnit
  command : CommandUnit
  area : Area
  aes : AesUnit
  transport : TransportUnit
  seq : Sequencer
  inputs : Inputs
  mem : Memory
  log : List LogEntry
  response : Option Response
  hung : Option Wait
  dev : Devices
  env : Env
  trace : List EnvCall
  inbox : List HostEvent
  /-- When the external reset arrives in the operation in progress: after so many more effects that outlast a reset;
  `none`, not during it (R310; log 25). -/
  resetIn : Option Nat
  deriving DecidableEq, Repr

/-- Why the machine stops. -/
inductive Fault where
  /-- Raised by `step` alone, in a state in which an operation waits for what the environment never gives and the
  next host event is no reset: the divergence result of R281. Safe: the block does nothing more either (log 4). -/
  | hang (w : Wait)
  deriving DecidableEq, Repr

/-- Requests to which the spec gives no meaning (60_exceptions.md R288, 00_scope.md R15). No state changes. -/
inductive Refusal where
  /-- An instruction without a meaning in this model, raised by `exec`; safe. -/
  | notModelled (mnemonic : String)
  /-- Raised by `step`: the decoder rejects the request (R93, R104) or the frame (R97); safe. -/
  | undecodable (why : Reject)
  /-- Raised by CTR.XFER: XPAGE x XBLOCKS is 2^32 or more (R105, R213); safe. -/
  | lengthOverflow
  /-- Raised by NTR.UNLOCK: PHASE is not Raw (R241); safe. -/
  | phaseOrder
  /-- Raised by KS.INIT, SA.DECRYPT and NTR.UNLOCK: BASE[gen] is not supplied (R140, U13); safe. -/
  | baseNotSupplied
  /-- Raised by SA.DECRYPT: the range parameters leave the buffer (R180, U19); safe. -/
  | areaRange
  /-- Raised by a frame row: the block builds no such frame in this state (log 14); safe. -/
  | frameNotBuilt
  deriving DecidableEq, Repr

/-- Unit U1 after reset (R40): TVALID = 0; the rest holds no value, stored as zero (DESIGN CHOICE, log 2). -/
def CipherUnit.reset : CipherUnit :=
  ⟨⟨Vector.replicate 0x412 0, ⟨0, 0, 0⟩⟩, false, .unwritten 0, .unwritten 0⟩

/-- Unit U2 after reset (R40): SVALID = 0 (log 2). -/
def CommandUnit.reset : CommandUnit :=
  ⟨⟨0, 0, 0, 0, 0, 0⟩, false, .unwritten 0, .unwritten 0⟩

/-- SA after reset (R40): no word holds a value (log 2). -/
def Area.reset : Area := Vector.replicate 0x1000 (.unwritten 0)

/-- Unit U4 after reset (R40): MACV = 0 (log 2). -/
def AesUnit.reset : AesUnit := ⟨Vector.replicate 15 (.unwritten 0), .unwritten ⟨0, 0, 0, 0⟩, false⟩

/-- Unit U5 after reset (R40, log 2). -/
def TransportUnit.reset : TransportUnit :=
  ⟨.unwritten ⟨0, 0, 0, 0⟩, .unwritten 0, .unwritten 0, .unwritten 0, .unwritten 0, .unwritten 0⟩

/-- The sequencing state after reset (R40): PHASE = Raw, the flags 0 (log 2). -/
def Sequencer.reset : Sequencer := ⟨.raw, .unwritten 0, .unwritten 0, .unwritten 0, false, false, false⟩

/-- The inputs after reset (R40): unspecified until the collaborator writes them (log 2). -/
def Inputs.reset : Inputs := ⟨.unwritten 0, .unwritten 0, .unwritten 0, .unwritten 0, .unwritten 0⟩

/-- The oracle at `State.reset`, outside the block (R311): nothing given, every wait ends at once (DESIGN CHOICE,
log 6). -/
def Env.initial : Env := ⟨[], [], ⟨false, true⟩, [], [], some 0, [], some 0, 0⟩

/-- The devices at `State.reset`, outside the block (R311; DESIGN CHOICE, log 17). -/
def Devices.initial : Devices := ⟨0, 0, false, 0, ⟨0, 0, 0, 0⟩⟩

/-- The machine right after reset (R40, R310). -/
def State.reset : State where
  cfg := Config.initial
  cipher := CipherUnit.reset
  command := CommandUnit.reset
  area := Area.reset
  aes := AesUnit.reset
  transport := TransportUnit.reset
  seq := Sequencer.reset
  inputs := Inputs.reset
  mem := []
  log := []
  response := none
  hung := none
  dev := Devices.initial
  env := Env.initial
  trace := []
  inbox := []
  resetIn := none

end Sys2Proof.Machine
end

