-- ==== Sys2Proof/Machine/Operands.lean ====
section
/-! DEFINITION. The operand forms: 32-bit arithmetic (00_scope.md R13), the slices of a word, the frame layouts
(30_encoding.md R94, R95), page sizes (R100, R105), and the parameters as functions (00_scope.md R11). -/

namespace Sys2Proof.Machine

/-- `add32(a, b)`: addition modulo 2^32 (R13). -/
def add32 (a b : Word) : Word := a + b

/-- `shl1(a)`: doubling modulo 2^32 (R13). -/
def shl1 (a : Word) : Word := a <<< 1

/-- `shr1(a)`: halving, a zero enters bit 31 (R13). -/
def shr1 (a : Word) : Word := a >>> 1

/-- Byte `j` of a word: bits 8j+7 to 8j (R12, 20_memory.md R62). -/
def byteOf (w : Word) (j : Nat) : Byte := w.extractLsb' (8 * j) 8

/-- The word whose bytes 0 to 3 are `b0` to `b3`, least significant first (R62). -/
def wordOfBytes (b0 b1 b2 b3 : Byte) : Word := b3 ++ b2 ++ b1 ++ b0

/-- `bswap32`: the four bytes in reverse order (R13). -/
def bswap32 (w : Word) : Word := wordOfBytes (byteOf w 3) (byteOf w 2) (byteOf w 1) (byteOf w 0)

/-- W0 of a frame, bits 31:0 (R63). -/
def frameLow (f : Frame) : Word := f.extractLsb' 0 32

/-- W1 of a frame, bits 63:32 (R63). -/
def frameHigh (f : Frame) : Word := f.extractLsb' 32 32

/-- The frame whose words are W0 = `lo` and W1 = `hi` (R63, 42_ntr_command.md R166). -/
def frameOf (lo hi : Word) : Frame := hi ++ lo

/-- BASE[gen], when supplied (41_key_schedule.md R140, R141). -/
def baseTable (cfg : Config) (gen : BitVec 1) : Option Table := if gen = 0 then cfg.base0 else cfg.base1

/-- OP_ACTIVATE_KEY1[gen] (R11). -/
def opActivateKey1 (cfg : Config) (gen : BitVec 1) : BitVec 8 :=
  if gen = 0 then cfg.opActivateKey1G0 else cfg.opActivateKey1G1

/-- Pack (42_ntr_command.md R165; bit positions R94, R96): the opcode ORed with b[15:12], b[11:0], p, q, c. -/
def pack (op : BitVec 8) (b : BitVec 16) (p q : BitVec 12) (c : BitVec 20) : Frame :=
  (op ||| (b.extractLsb' 12 4).zeroExtend 8) ++ b.extractLsb' 0 12 ++ p ++ q ++ c

/-- The activate-key1 frame (R95, R161). -/
def actKey1Frame (op : BitVec 8) (p q : BitVec 12) (c : BitVec 20) (e : BitVec 8) : Frame :=
  op ++ p ++ q ++ 0#4 ++ c ++ e

/-- SelectPair (R163). -/
def selectPair (cfg : Config) (ses : Session) (op : BitVec 8) : BitVec 12 × BitVec 12 :=
  if op = cfg.opActivateSec then (ses.q0, ses.q1) else (ses.p0, ses.p1)

/-- SelectBlock (R164). -/
def selectBlock (cfg : Config) (ses : Session) (op : BitVec 8) (blk : BitVec 16) : BitVec 16 :=
  if op = cfg.opSecureRead then blk else ses.blki

/-- The PFRAME that CMD.BUILD packs (R162, R163, R164, R165). -/
def commandFrame (cfg : Config) (ses : Session) (op : BitVec 8) (blk : BitVec 16) : Frame :=
  pack op (selectBlock cfg ses op blk) (selectPair cfg ses op).1 (selectPair cfg ses op).2 ses.cnt

/-- PageClass (30_encoding.md R100): a legal size stays, every other becomes 4096. -/
def pageClass (s : Word) : Word :=
  if s = 0 ∨ s = 4 ∨ s = 64 ∨ s = 512 ∨ s = 1024 ∨ s = 2048 ∨ s = 4096 then s else 4096

/-- PAGECODE of a legal page size (R100). -/
def pageCodeOf (c : PageCodes) (page : Word) : Word :=
  if page = 0 then c.code0
  else if page = 4 then c.code4
  else if page = 64 then c.code64
  else if page = 512 then c.code512
  else if page = 1024 then c.code1024
  else if page = 2048 then c.code2048
  else c.code4096

/-- The block count after the minimum of one (45_ctr_transport.md R212). -/
def minOneBlock (blocks : Word) : Word := if blocks = 0 then 1 else blocks

/-- The expected length in bytes as a natural number (R213). -/
def transferLength (pagesize blocks : Word) : Nat := (pageClass pagesize).toNat * (minOneBlock blocks).toNat

/-- SEEDCONST[HDR.SEEDIDX mod SEEDCONST_LEN] (46_unlock_sequences.md R247). -/
def seedConstant (cfg : Config) (idx : Nat) : Byte :=
  (cfg.seedConst0 :: cfg.seedConstRest).getD (idx % (cfg.seedConstRest.length + 1)) 0

/-- The value of a function given by its values. -/
def valueAt {α β : Type} [DecidableEq α] (f : FnValues α β) (a : α) : β := (f.listed.lookup a).getD f.rest

/-- An open function of R11 at an argument: its default, its uninterpreted constant, or its given value. -/
def applyOpen {α β : Type} [DecidableEq α] (f : OpenFn α β) (known free : α → β) (a : α) : β :=
  match f with
  | .gkDefault => known a
  | .uninterpreted => free a
  | .given g => valueAt g a

/-- SeedX (R247); the default is PRESUMED (92_eei_decisions.md D32, log 9). -/
def seedX (cfg : Config) (c : Byte) (q0 q1 : BitVec 12) : Frame :=
  applyOpen cfg.seedXFn
    (fun a => (a.2.1.zeroExtend 64 <<< 27) ||| (a.2.2.zeroExtend 64 <<< 15) ||| 0x6000#64 ||| a.1.zeroExtend 64)
    (fun a => Config.openSeedX a.1 a.2.1 a.2.2) (c, q0, q1)

/-- SeedY (R247); the default is PRESUMED (D32, log 9). -/
def seedY (cfg : Config) : Frame :=
  applyOpen cfg.seedYFn (fun _ => 0x5C879B9B05#64) (fun _ => Config.openSeedY) ()

/-- CMD_CHAL_A (R264); the default is PRESUMED (D33, log 9). -/
def cmdChalA (cfg : Config) (ch0 ch1 : Word) : Quad :=
  applyOpen cfg.chalAFn (fun a => ⟨0xA2000000, 0, a.1, a.2⟩) (fun a => Config.openCmdChalA a.1 a.2) (ch0, ch1)

/-- CMD_CHAL_B (R264); the default is PRESUMED (D33, log 9). -/
def cmdChalB (cfg : Config) (ch0 ch1 : Word) : Quad :=
  applyOpen cfg.chalBFn (fun a => ⟨0xA3000000, 0, a.1, a.2⟩) (fun a => Config.openCmdChalB a.1 a.2) (ch0, ch1)

/-- CMD_CONFIRM (R265); the default is PRESUMED (D33, log 9). -/
def cmdConfirm (cfg : Config) (ch0 ch1 : Word) : Quad :=
  applyOpen cfg.confirmFn (fun a => ⟨0xC5000000, 0, a.1, a.2⟩) (fun a => Config.openCmdConfirm a.1 a.2) (ch0, ch1)

/-- ReadFrame (R250); the default is PRESUMED (92_eei_decisions.md D34, log 9). -/
def readFrame (cfg : Config) (a : Word) : Frame :=
  applyOpen cfg.readFrameFn (fun a => cfg.opDataRead ++ a ++ 0#24) Config.openReadFrame a

/-- KeyScramble (44_ctr_aes_session.md R193); the stand-in is 95_test_vectors.md V14's (log 11). -/
def keyScramble (cfg : Config) (k : Quad) : Quad :=
  match cfg.aesEngine with
  | .uninterpreted => Config.openKeyScramble k
  | .standIn => ⟨~~~k.w0, ~~~k.w1, ~~~k.w2, ~~~k.w3⟩
  | .given f _ => valueAt f k

/-- CcmDecrypt (R193); the stand-in is 95_test_vectors.md V14's (log 11). -/
def ccmDecrypt (cfg : Config) (key : Quad) (counter : Trio) (ct mac : Quad) : Quad × Bool :=
  match cfg.aesEngine with
  | .uninterpreted => Config.openCcmDecrypt key counter ct mac
  | .standIn =>
    (⟨ct.w0 ^^^ key.w0, ct.w1 ^^^ key.w1, ct.w2 ^^^ key.w2, ct.w3 ^^^ key.w3⟩, decide (mac = ct))
  | .given _ f => valueAt f (key, counter, ct, mac)

/-- The granule of the bulk read in bytes (R251). -/
def granule (smallgeo : Bool) : Nat := if smallgeo then 0x1000 else 0x200

/-- CalibratedDelay in units of ten nanoseconds: HDR.TIMING x 7.63 us (R246, log 16). -/
def calibratedDelay (timing : Nat) : Nat := timing * 763

/-- PHASE as a number (R34). -/
def phaseNumber : Phase → Nat
  | .raw => 0
  | .keyedRandom => 1
  | .secureKeyed => 2
  | .dataMode => 3
  | .reading => 4

end Sys2Proof.Machine
end

