-- ==== Sys2Proof/Machine/Flags.lean ====
section
/-! DEFINITION. The flags of 10_state.md R35: what each is computed from. The block has no condition codes; MACV is
CcmDecrypt's own bit (44_ctr_aes_session.md R190), TVALID and SVALID are set by KS.INIT and SES.SEED (R23, R29). -/

namespace Sys2Proof.Machine

/-- The geometry bit: IDWORD[31] = 1 is "large" geometry (46_unlock_sequences.md R242, R245). -/
def largeGeometry (idword : Word) : Bool := idword.getLsbD 31

/-- SMALLGEO: 1 when IDWORD[31] = 0 (R242). -/
def smallGeometry (idword : Word) : Bool := !largeGeometry idword

/-- ST.IDMISMATCH after the verification: sticky, set when the answer differs from IDWORD (R248, R35). -/
def idMismatchAfter (before : Bool) (got idword : Word) : Bool := before || got != idword

/-- Whether both challenge answers are the expected ones (R264). -/
def answersMatch (resp0 resp1 idword capresp : Word) : Bool := resp0 == idword && resp1 == capresp

/-- ST.RESPMISMATCH after the comparison: sticky (R260, R35). -/
def respMismatchAfter (before : Bool) (resp0 resp1 idword capresp : Word) : Bool :=
  before || !answersMatch resp0 resp1 idword capresp

/-- The one log entry of a failed comparison: the first answer that differed (60_exceptions.md R283). -/
def responseMismatch (resp0 resp1 idword capresp : Word) : LogEntry :=
  if resp0 = idword then .mismatchResponse 1 capresp resp1 else .mismatchResponse 0 idword resp0

/-- The codes of the events (60_exceptions.md R280). -/
def EventName.code : EventName → Nat
  | .hang => 1
  | .mismatch => 2
  | .clamp => 3
  | .pollBound => 4
  | .uninit => 5
  | .refusal => 6

/-- The name of an event that returns control (R280, R287). -/
def Event.name : Event → EventName
  | .uninit _ => .uninit
  | .pollBound _ => .pollBound

/-- E_CLAMP happens, silently, when the page size is illegal or the block count is zero (R284). -/
def clamps (pagesize blocks : Word) : Bool := pageClass pagesize != pagesize || blocks == 0

end Sys2Proof.Machine
end

