-- ==== Sys2Proof/Machine/Ops.lean ====
section
/-! DEFINITION. The shared operations: field updates, host memory, the run of an operation with its early ends, the
events it takes, the register reads, the primitives toward the environment (00_scope.md R16) and the waits
(20_memory.md R73). -/

namespace Sys2Proof.Machine

/-- The state with `cipher` replaced. -/
def State.setCipher (s : State) (v : CipherUnit) : State := { s with cipher := v }

/-- The state with `command` replaced. -/
def State.setCommand (s : State) (v : CommandUnit) : State := { s with command := v }

/-- The state with `area` replaced. -/
def State.setArea (s : State) (v : Area) : State := { s with area := v }

/-- The state with `aes` replaced. -/
def State.setAes (s : State) (v : AesUnit) : State := { s with aes := v }

/-- The state with `transport` replaced. -/
def State.setTransport (s : State) (v : TransportUnit) : State := { s with transport := v }

/-- The state with `seq` replaced. -/
def State.setSeq (s : State) (v : Sequencer) : State := { s with seq := v }

/-- The state with `inputs` replaced. -/
def State.setInputs (s : State) (v : Inputs) : State := { s with inputs := v }

/-- The state with `mem` replaced. -/
def State.setMem (s : State) (v : Memory) : State := { s with mem := v }

/-- The state with `log` replaced. -/
def State.setLog (s : State) (v : List LogEntry) : State := { s with log := v }

/-- The state with `response` replaced. -/
def State.setResponse (s : State) (v : Option Response) : State := { s with response := v }

/-- The state with `hung` replaced. -/
def State.setHung (s : State) (v : Option Wait) : State := { s with hung := v }

/-- The state with `dev` replaced. -/
def State.setDev (s : State) (v : Devices) : State := { s with dev := v }

/-- The state with `env` replaced. -/
def State.setEnv (s : State) (v : Env) : State := { s with env := v }

/-- The state with `trace` replaced. -/
def State.setTrace (s : State) (v : List EnvCall) : State := { s with trace := v }

/-- The state with `inbox` replaced. -/
def State.setInbox (s : State) (v : List HostEvent) : State := { s with inbox := v }

/-- The state with `resetIn` replaced. -/
def State.setResetIn (s : State) (v : Option Nat) : State := { s with resetIn := v }

/-- The block's read of a byte of host memory; an unlisted byte has no value (DESIGN CHOICE, log 12). -/
def Memory.unlisted : Option Byte := none

/-- The byte at an address (R60, R62). -/
def Memory.read : Memory → Nat → Option Byte
  | [], _ => Memory.unlisted
  | (b, v) :: m, a => if a = b then some v else Memory.read m a

/-- Store one byte, keeping the addresses strictly rising. -/
def Memory.write : Memory → Nat → Byte → Memory
  | [], a, v => [(a, v)]
  | (b, w) :: m, a, v =>
    if a < b then (a, v) :: (b, w) :: m
    else if a = b then (a, v) :: m
    else (b, w) :: Memory.write m a v

/-- Every address of the list is above `lo` and below 2^32, strictly rising. -/
def Memory.risingFrom : Nat → Memory → Bool
  | _, [] => true
  | lo, (a, _) :: m => decide (lo ≤ a) && decide (a < 2 ^ 32) && Memory.risingFrom (a + 1) m

/-- The canonical form: addresses strictly rising, all below 2^32. -/
def Memory.wf (m : Memory) : Bool := Memory.risingFrom 0 m

/-- `MemWrite(a, 1, v)` (R14, R62). -/
def memWriteByte (m : Memory) (a : Word) (v : Byte) : Memory := Memory.write m a.toNat v

/-- `MemWrite(a, 4, w)`: byte j of the word at a + j, least significant first (R62); used on aligned addresses. -/
def memWriteWord (m : Memory) (a : Word) (w : Word) : Memory :=
  Memory.write (Memory.write (Memory.write (Memory.write m a.toNat (byteOf w 0)) (a.toNat + 1) (byteOf w 1))
    (a.toNat + 2) (byteOf w 2)) (a.toNat + 3) (byteOf w 3)

/-- `MemRead(a, 4)` (R14): defined by the spec and used by no rule (R78). -/
def memReadWord (m : Memory) (a : Word) : Option Word :=
  match Memory.read m a.toNat, Memory.read m (a + 1).toNat, Memory.read m (a + 2).toNat, Memory.read m (a + 3).toNat with
  | some b0, some b1, some b2, some b3 => some (wordOfBytes b0 b1 b2 b3)
  | _, _, _, _ => none

/-- An operation in progress: from a state to a value and a state, or to an early end and the state reached, with
every write made before it (60_exceptions.md R281, R287). -/
abbrev Op (α : Type) := EStateM Stop State α

/-- Look at the state. -/
def peek {α : Type} (f : State → α) : Op α := fun s => .ok (f s) s

/-- Change the state. -/
def change (f : State → State) : Op Unit := fun s => .ok () (f s)

/-- Change what a reset does not undo: the environment's side or host memory. Here the external reset can be seen to
arrive in the middle of an operation (70_reset_and_hazards.md R310, R311; log 25): every other write is wiped by it, so
a reset between two such changes leaves the same state wherever it falls. -/
def effect (f : State → State) : Op Unit := fun s =>
  match s.resetIn with
  | none => .ok () (f s)
  | some 0 => .error .reset s
  | some (n + 1) => .ok () (f (s.setResetIn (some n)))

/-- End the operation here (60_exceptions.md R287: every write before has happened and none after). -/
def stop {α : Type} (e : Stop) : Op α := fun s => .error e s

/-- Run `m` only when `c` holds. -/
def onlyIf (c : Bool) (m : Op Unit) : Op Unit := fun s => if c then m s else .ok () s

/-- Taking an event, the one shared operation: an event that returns control is reported in the response record
(R286, R287); a hang produces no record and leaves the block waiting for ever (R281); an operation that the reset
interrupts ends without a record (70_reset_and_hazards.md R310). Nothing else is saved, switched or masked (R287). -/
def takeStop (e : Stop) (s : State) : State :=
  match e with
  | .event ev => s.setResponse (some (.fault ev))
  | .hang w => (s.setResponse none).setHung (some w)
  | .reset => s.setResponse none

/-- There is no return from an event (R289): the recovery is the reset event (70_reset_and_hazards.md R310). It
leaves the block as R40 says and touches neither the parameters, nor the devices, nor host memory (R311; log 17,
log 25). The oracle is free from here on: it answers as `e` says (R311), with fresh free values (log 7). -/
def resetEvent (e : Env) (s : State) : State :=
  { State.reset with
    cfg := s.cfg, mem := s.mem, dev := s.dev, trace := s.trace, inbox := s.inbox
    env := { e with freeCtr := s.env.freeCtr } }

/-- Perform an operation and return its response record (R26, R101), or take the event that ended it. -/
def perform (m : Op Response) (s : State) : Host.Outcome State Fault Refusal :=
  match m s with
  | .ok r t => .next (t.setResponse (some r))
  | .error e t => .next (takeStop e t)

/-- Read a register; E_UNINIT when nothing has written it (10_state.md R41). -/
def readReg {α : Type} (e : Element) (f : State → Reg α) : Op α := fun s =>
  if (f s).written then .ok (f s).val s else .error (.event (.uninit e)) s

/-- T and K may be read: E_UNINIT when TVALID = 0 (R41). -/
def needTable : Op Unit := fun s =>
  if s.cipher.tvalid then .ok () s else .error (.event (.uninit .table)) s

/-- SES may be read: E_UNINIT when SVALID = 0 (R41). -/
def needSession : Op Unit := fun s =>
  if s.command.svalid then .ok () s else .error (.event (.uninit .session)) s

/-- Append one entry to the log output (R283). -/
def logEntry (e : LogEntry) : Op Unit := change fun s => s.setLog (s.log ++ [e])

/-- Make a call to the environment, recorded in the trace (log 5). -/
def call (c : EnvCall) : Op Unit := effect fun s => s.setTrace (s.trace ++ [c])

/-- `Delay(t)`: lets at least `t` pass and changes no state of the block (R16); `t` in ten nanoseconds (log 16). -/
def delay (t : Nat) : Op Unit := call (.delay t)

/-- The oracle after one more free value has been taken. -/
def Env.nextFree (e : Env) : Env := { e with freeCtr := e.freeCtr + 1 }

/-- What the next `Draw()` answers: the next given draw, or a free value (log 7). -/
def Env.nextDraw (e : Env) : Word :=
  match e.draws with
  | d :: _ => d
  | [] => Config.freeDraw e.freeCtr

/-- The oracle after a `Draw()`. -/
def Env.afterDraw (e : Env) : Env :=
  match e.draws with
  | _ :: ds => { e with draws := ds }
  | [] => e.nextFree

/-- `Draw()` (R16, R69): consumes one value of the entropy stream. -/
def draw : Op Word := fun s => .ok s.env.nextDraw (s.setEnv s.env.afterDraw)

/-- The oldest word of the receive FIFO, or a free value (log 7). -/
def Env.nextWord (e : Env) : Word :=
  match e.fifo with
  | w :: _ => w
  | [] => Config.freeFifoWord e.freeCtr

/-- The oracle after a `PopFifo()`. -/
def Env.afterPop (e : Env) : Env :=
  match e.fifo with
  | _ :: ws => { e with fifo := ws }
  | [] => e.nextFree

/-- `PopFifo()` (R16, R69): removes and returns the oldest word. -/
def popFifo : Op Word := fun s => .ok s.env.nextWord (s.setEnv s.env.afterPop)

/-- Why a wait that the environment does not satisfy ends: E_POLLBOUND when POLL_BOUND is finite (R294), never when it
is infinite (R281). -/
def unsatisfied (bound : Option Nat) (w : Wait) : Stop :=
  match bound with
  | some _ => .event (.pollBound w)
  | none => .hang w

/-- Whether a wait that has taken `count` samples without success has reached POLL_BOUND (R294, log 18). -/
def reachedBound (bound : Option Nat) (count : Nat) : Bool :=
  match bound with
  | some b => decide (b ≤ count)
  | none => false

/-- How a wait that succeeds after `polls` unsuccessful samples ends, if it does not simply end (R281, R294). -/
def waitVerdict (bound polls : Option Nat) (w : Wait) : Option Stop :=
  match polls with
  | none => some (unsatisfied bound w)
  | some k => if reachedBound bound k then some (unsatisfied bound w) else none

/-- A wait that ends as `waitVerdict` says (log 19). -/
def settle (w : Wait) (polls : Option Nat) : Op Unit := fun s =>
  match waitVerdict s.cfg.pollBound polls w with
  | none => .ok () s
  | some e => .error e s

/-- The polls of the next completion wait. -/
def Env.nextAccept (e : Env) : Option Nat :=
  match e.accepts with
  | a :: _ => a
  | [] => e.acceptRest

/-- The oracle after a completion wait. -/
def Env.afterAccept (e : Env) : Env :=
  match e.accepts with
  | _ :: as => { e with accepts := as }
  | [] => e

/-- The completion wait of the AES engine, `CtrSecKey` or `CtrSecSeed` (R73, R196, R261). That the engine has one such
wait for a whole AES.SESSION is the model's choice (log 32). -/
def awaitAccept (w : Wait) : Op Unit := fun s => settle w s.env.nextAccept (s.setEnv s.env.afterAccept)

/-- The answer of the next `NtrSend`. -/
def Env.nextReply (e : Env) : NtrReply :=
  match e.replies with
  | r :: _ => r
  | [] => ⟨e.replyRest, []⟩

/-- The oracle after an `NtrSend`. -/
def Env.afterReply (e : Env) : Env :=
  match e.replies with
  | _ :: rs => { e with replies := rs }.nextFree
  | [] => e.nextFree

/-- The `n` bytes an answer delivers: those given, then free values (R243, log 7). -/
def replyBytes (given : List Byte) (ctr n : Nat) : List Byte :=
  (List.range n).map fun j => given.getD j (Config.freeByte ctr j)

/-- Wait for the card-slot controller's busy flag to clear and take the `n` bytes it has (R243). -/
def receiveReply (n : Nat) : Op (List Byte) := do
  let polls ← peek (·.env.nextReply.polls)
  let bytes ← peek fun s => replyBytes s.env.nextReply.bytes s.env.freeCtr n
  change fun s => s.setEnv s.env.afterReply
  settle .ntrSend polls
  pure bytes

/-- `NtrSend(FR, n)` (R243): send the frame, wait for busy to clear, return `n` bytes. -/
def ntrSend (f : Frame) (n : Nat) : Op (List Byte) := do
  call (.ntrSend f n)
  receiveReply n

/-- `SeedWrite(x, y)` (R16, R247): programs the NTR seed registers and switches the streaming decrypt engine on. -/
def seedWrite (x y : Frame) : Op Unit := effect fun s =>
  (s.setTrace (s.trace ++ [.seedWrite x y])).setDev { s.dev with seedX := x, seedY := y, key2On := true }

/-- `CtrSecKey(v)` (R16, R261): programs the secure-key index and waits for the controller. The index is a natural
number, since the source gives it no width (91_not_in_source.md N3; DESIGN CHOICE, log 31). -/
def ctrSecKey (v : Nat) : Op Unit := do
  call (.ctrSecKey v)
  awaitAccept .ctrSecKey
  effect fun s => s.setDev { s.dev with secKey := v }

/-- `CtrSecSeed(s0, s1, s2, s3)` (R16, R261): programs the seed registers and waits for the controller. -/
def ctrSecSeed (q : Quad) : Op Unit := do
  call (.ctrSecSeed q)
  awaitAccept .ctrSecSeed
  effect fun s => s.setDev { s.dev with secSeed := q }

/-- The oracle with other samples to come. -/
def Env.withStatus (e : Env) (xs : List Sample) : Env := { e with status := xs }

/-- The next answer of `Status()`. -/
def Env.nextSample (e : Env) : Sample :=
  match e.status with
  | x :: _ => x
  | [] => e.statusRest

/-- The oracle after a `Status()`. -/
def Env.afterSample (e : Env) : Env :=
  match e.status with
  | _ :: xs => e.withStatus xs
  | [] => e

/-- One sample of wait `w`, which has taken `count` samples without success (R16, R294). -/
def sampleStatus (w : Wait) (count : Nat) : Op Sample := fun s =>
  if reachedBound s.cfg.pollBound count then .error (unsatisfied s.cfg.pollBound w) s
  else .ok s.env.nextSample (s.setEnv s.env.afterSample)

/-- `repeat s <- Status() until goal`: over the given samples `xs` and then `rest` for ever. It answers the samples
left, and whether the goal was met (45_ctr_transport.md R217, R218; R294). -/
def pollUntil (bound : Option Nat) (goal : Sample → Bool) (rest : Sample) : Nat → List Sample → Bool × List Sample
  | count, [] => (!reachedBound bound count && goal rest, [])
  | count, x :: xs =>
    if reachedBound bound count then (false, x :: xs)
    else if goal x then (true, xs)
    else pollUntil bound goal rest (count + 1) xs

/-- A wait on the CTR controller's status (R217, R218, R219). -/
def awaitStatus (w : Wait) (goal : Sample → Bool) : Op Unit := fun s =>
  let r := pollUntil s.cfg.pollBound goal s.env.statusRest 0 s.env.status
  let t := s.setEnv (s.env.withStatus r.2)
  if r.1 then .ok () t else .error (unsatisfied s.cfg.pollBound w) t

end Sys2Proof.Machine
end

