-- ==== Sys2Proof/Machine/AesSession.lean ====
section
/-! DEFINITION. Unit U4: the AES session engine (44_ctr_aes_session.md), with the meaning of AES.SESSION. -/

namespace Sys2Proof.Machine

/-- Read AESIN[i]; E_UNINIT when nothing has written it (10_state.md R41). -/
def readAesin (i : Fin 15) : Op Word := readReg (.port (.aesin i)) (·.aes.aesin[i])

/-- Four consecutive words of AESIN. -/
def readAesinQuad (i0 i1 i2 i3 : Fin 15) : Op Quad := do
  let a ← readAesin i0
  let b ← readAesin i1
  let c ← readAesin i2
  let d ← readAesin i3
  pure ⟨a, b, c, d⟩

/-- The key of a retail cartridge: KeyScramble of AESIN[0..3] (R192). -/
def scrambledKey : Op Quad := do
  let src ← readAesinQuad 0 1 2 3
  call (.keyScramble src)
  peek fun s => keyScramble s.cfg src

/-- SessionKeySource (R192). -/
def sessionKeySource (dev : BitVec 1) : Op Quad := if dev = 1 then pure ⟨0, 0, 0, 0⟩ else scrambledKey

/-- AESOUT and MACV, written in one step at the end (10_state.md R32). -/
def putSession (pt : Quad) (ok : Bool) : Op Unit := change fun s =>
  s.setAes { s.aes with aesout := .holding pt, macv := ok }

/-- AES.SESSION up to its response (R190): AESOUT and MACV are written before a failed MAC is logged (R286). R196 speaks
of waits for the engine's FIFOs and gives no sequence (91_not_in_source.md N8); here they are one completion wait, after
every read of AESIN and both calls (DESIGN CHOICE, log 32). -/
def aesSession (dev : BitVec 1) : Op Unit := do
  let key ← sessionKeySource dev
  let n0 ← readAesin 12
  let n1 ← readAesin 13
  let n2 ← readAesin 14
  let ct ← readAesinQuad 4 5 6 7
  let mac ← readAesinQuad 8 9 10 11
  call (.ccmDecrypt key ⟨n0, n1, n2⟩ ct mac)
  awaitAccept .aesEngine
  let r ← peek fun s => ccmDecrypt s.cfg key ⟨n0, n1, n2⟩ ct mac
  putSession r.1 r.2
  onlyIf (!r.2) (logEntry .mismatchMac)

/-- The response record of AES.SESSION (R101). -/
def sessionResponse : Op Response := peek fun s => .session s.aes.aesout.val s.aes.macv

/-- AES.SESSION (R190). -/
def execAesSession (dev : BitVec 1) (s : State) : Host.Outcome State Fault Refusal :=
  perform (do aesSession dev; sessionResponse) s

end Sys2Proof.Machine
end

