-- ==== Sys2Proof/Machine/Cipher.lean ====
section
/-! DEFINITION. Unit U1: the round engine (40_key1_cipher.md) and the key schedule (41_key_schedule.md), with the
meanings of K1.ENC, K1.DEC, KS.INIT, KS.LIGHT and KS.FULL. -/

namespace Sys2Proof.Machine

/-- The slot a byte of z selects in the sub-table that starts at `base` (R78 b): base + byte, zero-extended, at most
0x411 for the four bases of R61. -/
def subSlot (t : Table) (base : Nat) (h : base ≤ 0x312) (b : Byte) : Word := t[base + b.toNat]'(by have := b.isLt; omega)

/-- The sub-table function F, accumulated XOR, ADD, XOR, ADD from zero (R120). -/
def subTable (t : Table) (z : Word) : Word :=
  add32 (add32 (0 ^^^ subSlot t 0x012 (by decide) (byteOf z 3)) (subSlot t 0x112 (by decide) (byteOf z 2))
      ^^^ subSlot t 0x212 (by decide) (byteOf z 1))
    (subSlot t 0x312 (by decide) (byteOf z 0))

/-- One round with slot `i` (R121): z = T[i] ^ right; the new right is F(z) ^ left and the new left is z. -/
def feistelRound (t : Table) (i : Fin 0x412) (b : Block) : Block :=
  let z := t[i] ^^^ b.right
  ⟨z, subTable t z ^^^ b.left⟩

/-- The rounds of a list of slots, in its order. -/
def rounds (t : Table) : List (Fin 0x412) → Block → Block
  | [], b => b
  | i :: is, b => rounds t is (feistelRound t i b)

/-- The slots of the forward pass: 0 to 15 (R61, R122). -/
def forwardSlots : List (Fin 0x412) := [0, 1, 2, 3, 4, 5, 6, 7, 8, 9, 10, 11, 12, 13, 14, 15]

/-- The slots of the reverse pass: 0x11 down to 2 (R61, R123). -/
def reverseSlots : List (Fin 0x412) := [17, 16, 15, 14, 13, 12, 11, 10, 9, 8, 7, 6, 5, 4, 3, 2]

/-- The crossed output of a pass with its two final-XOR slots (R122, R123). -/
def whiten (t : Table) (s0 s1 : Fin 0x412) (b : Block) : Block := ⟨b.right ^^^ t[s0], b.left ^^^ t[s1]⟩

/-- Enc, the forward pass (R122). -/
def enc (t : Table) (b : Block) : Block := whiten t 0x10 0x11 (rounds t forwardSlots b)

/-- Dec, the reverse pass (R123). -/
def dec (t : Table) (b : Block) : Block := whiten t 0x01 0x00 (rounds t reverseSlots b)

/-- ClearTable (R141). -/
def clearTable : Table := Vector.replicate 0x412 0

/-- LoadBase (R141): every slot of the cleared table is written. -/
def loadBase (base _t : Table) : Table := base

/-- DeriveKeyCode (R142). -/
def deriveKeyCode (code : Word) : KeyCode := ⟨code, shr1 code, shl1 code⟩

/-- PreCipher (R143): Enc on (K[1], K[2]), then on (K[0], K[1]) with the K[1] just written. -/
def preCipher (t : Table) (k : KeyCode) : KeyCode :=
  let a := enc t ⟨k.k1, k.k2⟩
  let b := enc t ⟨k.k0, a.left⟩
  ⟨b.left, b.right, a.right⟩

/-- K[i mod 2] (R145). -/
def KeyCode.parity (k : KeyCode) (i : Nat) : Word := if i % 2 = 0 then k.k0 else k.k1

/-- XorStep (R145): slots below KS_XOR_SLOTS are XORed with the byte-swapped key-code word of their parity. -/
def xorStep (slots : Nat) (k : KeyCode) (t : Table) : Table :=
  t.mapIdx fun i w => if i < slots then w ^^^ bswap32 (k.parity i) else w

/-- `n` iterations of the rebuild from slot `i` (R146): cipher the scratch block under the table as it is, write its
right word to slot i and its left word to slot i + 1. -/
def rebuildFrom : Nat → Nat → Block → Table → Table
  | 0, _, _, t => t
  | n + 1, i, scr, t =>
    let e := enc t scr
    rebuildFrom n (i + 2) e ((t.setIfInBounds i e.right).setIfInBounds (i + 1) e.left)

/-- Rebuild (R146): 0x209 iterations from the zero block. -/
def rebuild (t : Table) : Table := rebuildFrom 0x209 0 ⟨0, 0⟩ t

/-- ApplyPass, one schedule pass (R144). -/
def applyPass (slots : Nat) (x : Schedule) : Schedule :=
  let k := preCipher x.t x.k
  ⟨rebuild (xorStep slots k x.t), k⟩

/-- ScaleKeyCode (R147). -/
def scaleKeyCode (x : Schedule) : Schedule := { x with k := { x.k with k1 := shl1 x.k.k1, k2 := shr1 x.k.k2 } }

/-- Passes `p`, p + 1, ..., `n` of them, scaling after pass `after` (R140). -/
def passesFrom (slots after : Nat) : Nat → Nat → Schedule → Schedule
  | 0, _, x => x
  | n + 1, p, x =>
    let y := applyPass slots x
    passesFrom slots after n (p + 1) (if p = after then scaleKeyCode y else y)

/-- The number of schedule passes (R148): LIGHT 2, FULL 3. -/
def passCount (stage : BitVec 1) : Nat := if stage = 1 then 3 else 2

/-- KsInit as a function of its operands, the base table and the parameters (R140, R149). -/
def ksSchedule (cfg : Config) (base : Table) (code : Word) (stage : BitVec 1) : Schedule :=
  passesFrom cfg.ksXorSlots cfg.ksScaleAfterPass (passCount stage) 1 ⟨loadBase base clearTable, deriveKeyCode code⟩

/-- The state after KsInit (R140): T and K hold the schedule and TVALID is 1. -/
def scheduled (base : Table) (code : Word) (stage : BitVec 1) (s : State) : State :=
  s.setCipher { s.cipher with sched := ksSchedule s.cfg base code stage, tvalid := true }

/-- KsInit as a step of a longer operation, the base table being supplied (R140). -/
def ksInit (base : Table) (code : Word) (stage : BitVec 1) : Op Unit := change (scheduled base code stage)

/-- Run an operation that needs BASE[gen]; refused when the table is not supplied (R140, R286, U13). -/
def withBase (gen : BitVec 1) (s : State) (k : Table → Host.Outcome State Fault Refusal) :
    Host.Outcome State Fault Refusal :=
  match baseTable s.cfg gen with
  | some base => k base
  | none => .refused .baseNotSupplied

/-- BLK after a pass, and the response record (R24, R101). -/
def putBlock (b : Block) : Op Response := fun s =>
  .ok (.block b.left b.right) (s.setCipher { s.cipher with blk0 := .holding b.left, blk1 := .holding b.right })

/-- A pass over the operands under T (R122, R123). -/
def passOp (f : Table → Block → Block) (w0 w1 : Word) : Op Response := do
  needTable
  let t ← peek (·.cipher.sched.t)
  putBlock (f t ⟨w0, w1⟩)

/-- The operation KS.INIT (R140). -/
def ksInitOp (code : Word) (stage gen : BitVec 1) (s : State) : Host.Outcome State Fault Refusal :=
  withBase gen s fun base => perform (do ksInit base code stage; pure .done) s

/-- K1.ENC (R122). -/
def execK1Enc (w0 w1 : Word) (s : State) : Host.Outcome State Fault Refusal := perform (passOp enc w0 w1) s

/-- K1.DEC (R123). -/
def execK1Dec (w0 w1 : Word) (s : State) : Host.Outcome State Fault Refusal := perform (passOp dec w0 w1) s

/-- KS.INIT (R140). -/
def execKsInit (code : Word) (stage gen : BitVec 1) (s : State) : Host.Outcome State Fault Refusal :=
  ksInitOp code stage gen s

/-- KS.LIGHT: KS.INIT code, LIGHT, gen (30_encoding.md R103). -/
def execKsLight (code : Word) (gen : BitVec 1) (s : State) : Host.Outcome State Fault Refusal :=
  ksInitOp code 0 gen s

/-- KS.FULL: KS.INIT code, FULL, gen (R103). -/
def execKsFull (code : Word) (gen : BitVec 1) (s : State) : Host.Outcome State Fault Refusal :=
  ksInitOp code 1 gen s

end Sys2Proof.Machine
end

