-- ==== Sys2Proof/Machine/NtrCommand.lean ====
section
/-! DEFINITION. Unit U2: session and command frames (42_ntr_command.md), with the meanings of SES.SEED, CMD.ACTKEY1,
CMD.BUILD, the four CMD pseudo-operations and the frame rows of the opcode table. -/

namespace Sys2Proof.Machine

/-- Seal (R166): one forward pass on the two words of a frame. -/
def sealFrame (t : Table) (f : Frame) : Frame :=
  let e := enc t ⟨frameLow f, frameHigh f⟩
  frameOf e.left e.right

/-- Six draws, one per field, low bits kept (R160). -/
def sesSeed : Op Unit := do
  let p0 ← draw
  let p1 ← draw
  let cnt ← draw
  let blki ← draw
  let q0 ← draw
  let q1 ← draw
  change fun s => s.setCommand { s.command with
    ses := ⟨p0.extractLsb' 0 12, p1.extractLsb' 0 12, cnt.extractLsb' 0 20, blki.extractLsb' 0 16,
      q0.extractLsb' 0 12, q1.extractLsb' 0 12⟩
    svalid := true }

/-- The frame registers after a build (R30). -/
def putFrames (p e : Frame) : Op Unit := change fun s =>
  s.setCommand { s.command with pframe := .holding p, eframe := .holding e }

/-- The PFRAME of CMD.ACTKEY1 in a state, its entropy byte being the next draw's low byte (R161). -/
def nextActKey1Frame (gen : BitVec 1) (s : State) : Frame :=
  actKey1Frame (opActivateKey1 s.cfg gen) s.command.ses.p0 s.command.ses.p1 s.command.ses.cnt
    (s.env.nextDraw.extractLsb' 0 8)

/-- CMD.ACTKEY1 (R161): the frame is not ciphered. -/
def actKey1 (gen : BitVec 1) : Op Unit := do
  needSession
  let f ← peek (nextActKey1Frame gen)
  let _ ← draw
  putFrames f f

/-- SES.CNT after a build: plus one modulo 2^20 when a secure read is built, or always under CNT_INC_ALL (R162, R167).
-/
def countAfter (cfg : Config) (op : BitVec 8) (cnt : BitVec 20) : BitVec 20 :=
  if op = cfg.opSecureRead ∨ cfg.cntIncAll = true then cnt + 1 else cnt

/-- Step SES.CNT after a build of `op` (R162). -/
def stepCounter (op : BitVec 8) : Op Unit := change fun s =>
  s.setCommand { s.command with ses := { s.command.ses with cnt := countAfter s.cfg op s.command.ses.cnt } }

/-- The PFRAME of CMD.BUILD in a state (R162). -/
def nextCommandFrame (op : BitVec 8) (blk : BitVec 16) (s : State) : Frame :=
  commandFrame s.cfg s.command.ses op blk

/-- CMD.BUILD (R162): select, pack, seal, then count. -/
def cmdBuild (op : BitVec 8) (blk : BitVec 16) : Op Unit := do
  needSession
  needTable
  let f ← peek (nextCommandFrame op blk)
  let t ← peek (·.cipher.sched.t)
  putFrames f (sealFrame t f)
  stepCounter op

/-- The response record of a build: EFRAME (R101). -/
def frameResponse : Op Response := peek fun s => .frame s.command.eframe.val

/-- The operation CMD.BUILD with its response (R162). -/
def cmdBuildOp (op : BitVec 8) (blk : BitVec 16) : Op Response := do
  cmdBuild op blk
  frameResponse

/-- The operation CMD.ACTKEY1 with its response (R161). -/
def actKey1Op (gen : BitVec 1) : Op Response := do
  actKey1 gen
  frameResponse

/-- A frame row stands for the build that packs that frame (R97, log 14). Where the build would read state that holds
no value the event is the build's own; where the build packs another frame, the block builds no such frame. -/
def buildMatching (readable : State → Bool) (built : State → Frame) (want : Frame) (op : Op Response) (s : State) :
    Host.Outcome State Fault Refusal :=
  if readable s && built s != want then .refused .frameNotBuilt else perform op s

/-- The frame row of CMD.ACTKEY1 gen (R95, R161). -/
def actKey1Matching (gen : BitVec 1) (want : Frame) (s : State) : Host.Outcome State Fault Refusal :=
  buildMatching (·.command.svalid) (nextActKey1Frame gen) want (actKey1Op gen) s

/-- The frame row of CMD.BUILD op, blk (R94, R97, R162). -/
def commandMatching (op : BitVec 8) (blk : BitVec 16) (want : Frame) (s : State) :
    Host.Outcome State Fault Refusal :=
  buildMatching (fun u => u.command.svalid && u.cipher.tvalid) (nextCommandFrame op blk) want (cmdBuildOp op blk) s

/-- SES.SEED (R160). -/
def execSesSeed (s : State) : Host.Outcome State Fault Refusal := perform (do sesSeed; pure .done) s

/-- CMD.ACTKEY1 (R161). -/
def execCmdActkey1 (gen : BitVec 1) (s : State) : Host.Outcome State Fault Refusal := perform (actKey1Op gen) s

/-- CMD.BUILD (R162). -/
def execCmdBuild (op : BitVec 8) (blk : BitVec 16) (s : State) : Host.Outcome State Fault Refusal :=
  perform (cmdBuildOp op blk) s

/-- CMD.ACTSEC: CMD.BUILD OP_ACTIVATE_SEC, 0 (30_encoding.md R103). -/
def execCmdActsec (s : State) : Host.Outcome State Fault Refusal := perform (cmdBuildOp s.cfg.opActivateSec 0) s

/-- CMD.CHIPID: CMD.BUILD OP_SECURE_CHIPID, 0 (R103). -/
def execCmdChipid (s : State) : Host.Outcome State Fault Refusal := perform (cmdBuildOp s.cfg.opSecureChipid 0) s

/-- CMD.SECREAD: CMD.BUILD OP_SECURE_READ, blk (R103). -/
def execCmdSecread (blk : BitVec 16) (s : State) : Host.Outcome State Fault Refusal :=
  perform (cmdBuildOp s.cfg.opSecureRead blk) s

/-- CMD.DATAMODE: CMD.BUILD OP_DATA_MODE, 0 (R103). -/
def execCmdDatamode (s : State) : Host.Outcome State Fault Refusal := perform (cmdBuildOp s.cfg.opDataMode 0) s

/-- FRAME.ACTIVATE_KEY1.G0: CMD.ACTKEY1 0 where it builds this frame (R95, R161, log 14). -/
def execFrameActivateKey1G0 (p q : BitVec 12) (c : BitVec 20) (e : BitVec 8) (s : State) :
    Host.Outcome State Fault Refusal :=
  actKey1Matching 0 (wordActKey1 0x3C p q c e) s

/-- FRAME.ACTIVATE_KEY1.G1: CMD.ACTKEY1 1 where it builds this frame (R95, R161, log 14). -/
def execFrameActivateKey1G1 (p q : BitVec 12) (c : BitVec 20) (e : BitVec 8) (s : State) :
    Host.Outcome State Fault Refusal :=
  actKey1Matching 1 (wordActKey1 0x3D p q c e) s

/-- FRAME.ACTIVATE_SEC: CMD.BUILD OP_ACTIVATE_SEC where it builds this frame (R94, R97, log 14). -/
def execFrameActivateSec (b : BitVec 16) (p q : BitVec 12) (c : BitVec 20) (s : State) :
    Host.Outcome State Fault Refusal :=
  commandMatching s.cfg.opActivateSec 0 (wordFrame 0x4 b p q c) s

/-- FRAME.SECURE_CHIPID: CMD.BUILD OP_SECURE_CHIPID where it builds this frame (R94, R97, log 14). -/
def execFrameSecureChipid (b : BitVec 16) (p q : BitVec 12) (c : BitVec 20) (s : State) :
    Host.Outcome State Fault Refusal :=
  commandMatching s.cfg.opSecureChipid 0 (wordFrame 0x1 b p q c) s

/-- FRAME.SECURE_READ: CMD.BUILD OP_SECURE_READ, b where it builds this frame (R94, R97, log 14). -/
def execFrameSecureRead (b : BitVec 16) (p q : BitVec 12) (c : BitVec 20) (s : State) :
    Host.Outcome State Fault Refusal :=
  commandMatching s.cfg.opSecureRead b (wordFrame 0x2 b p q c) s

/-- FRAME.DATA_MODE: CMD.BUILD OP_DATA_MODE where it builds this frame (R94, R97, log 14). -/
def execFrameDataMode (b : BitVec 16) (p q : BitVec 12) (c : BitVec 20) (s : State) :
    Host.Outcome State Fault Refusal :=
  commandMatching s.cfg.opDataMode 0 (wordFrame 0xA b p q c) s

end Sys2Proof.Machine
end

