-- ==== Sys2Proof/Machine/SecureArea.lean ====
section
/-! DEFINITION. Unit U3: the secure-area decryptor (43_secure_area.md), with the meaning of SA.DECRYPT. -/

namespace Sys2Proof.Machine

/-- A word index of SA (20_memory.md R60); the range check of R180 keeps every index below 0x1000. -/
def areaIndex (i : Nat) : Fin 0x1000 := Fin.ofNat 0x1000 i

/-- Read SA[i]; E_UNINIT when nothing has written it (10_state.md R41). -/
def readArea (i : Nat) : Op Word := readReg (.port (.sa (areaIndex i))) (·.area[areaIndex i])

/-- SA with word `i` written. -/
def areaSet (a : Area) (i : Nat) (w : Word) : Area := a.set (areaIndex i).val (.holding w) (areaIndex i).isLt

/-- Write SA[i]. -/
def writeArea (i : Nat) (w : Word) : Op Unit := change fun s => s.setArea (areaSet s.area i w)

/-- DecBlock(k) under the table in T (R180). -/
def decBlock (k : Nat) : Op Unit := do
  let w0 ← readArea (2 * k)
  let w1 ← readArea (2 * k + 1)
  let t ← peek (·.cipher.sched.t)
  let d := dec t ⟨w0, w1⟩
  writeArea (2 * k) d.left
  writeArea (2 * k + 1) d.right

/-- `n` blocks from block `k` up, one after the other (R180, R182). -/
def decBlocksFrom : Nat → Nat → Op Unit
  | 0, _ => pure ()
  | n + 1, k => do
    decBlock k
    decBlocksFrom n (k + 1)

/-- Whether the range parameters stay inside the buffer's 0x800 blocks (R180 corner case c, U19; log 22). -/
def areaRangeLegal (cfg : Config) : Bool :=
  decide (cfg.saLightBlock < 0x800) && decide (cfg.saFullStart + cfg.saFullCount ≤ 0x800)

/-- The two stages (R180, R181, R182). -/
def saDecrypt (base : Table) (code : Word) : Op Unit := do
  ksInit base code 0
  let light ← peek (·.cfg.saLightBlock)
  decBlock light
  ksInit base code 1
  let start ← peek (·.cfg.saFullStart)
  let count ← peek (·.cfg.saFullCount)
  decBlocksFrom count start

/-- SA.DECRYPT (R180). Where the ranges leave the buffer and BASE[gen] is missing too, the ranges are the reason
reported: the spec gives the two refusals no order (DESIGN CHOICE, log 22). -/
def execSaDecrypt (code : Word) (gen : BitVec 1) (s : State) : Host.Outcome State Fault Refusal :=
  if areaRangeLegal s.cfg then withBase gen s fun base => perform (do saDecrypt base code; pure .done) s
  else .refused .areaRange

end Sys2Proof.Machine
end

