-- ==== Sys2Proof/Machine/Transport.lean ====
section
/-! DEFINITION. Unit U5: the transport sequencer (45_ctr_transport.md), with the meanings of CTR.XFER and CTR.SEND. -/

namespace Sys2Proof.Machine

/-- Where a popped word goes: nowhere, to host memory (R216), or to the caller (46_unlock_sequences.md R267). -/
inductive Sink where
  | discard
  | memory (dest : Word)
  | capture
  deriving DecidableEq, Repr

/-- The destination of a CTR.XFER request: `dest` when dv = 1, none when dv = 0 (R210, R216). -/
def sinkOf (dv : BitVec 1) (dest : Word) : Sink := if dv = 1 then .memory dest else .discard

/-- The stores of one word at `dest + cnt`: one word store on the word-aligned fast path when dest[1:0] = 0, four byte
stores at addresses modulo 2^32 on the slow path otherwise (R216, 20_memory.md R67). -/
def storeSteps (dest cnt w : Word) : List (Memory → Memory) :=
  let a := dest + cnt
  if dest.extractLsb' 0 2 = 0#2 then [fun m => memWriteWord m a w]
  else [fun m => memWriteByte m a (byteOf w 0), fun m => memWriteByte m (a + 1) (byteOf w 1),
    fun m => memWriteByte m (a + 2) (byteOf w 2), fun m => memWriteByte m (a + 3) (byteOf w 3)]

/-- Host memory after the stores, in their order. -/
def afterStores (steps : List (Memory → Memory)) (m : Memory) : Memory := steps.foldl (fun m f => f m) m

/-- Host memory after one word is stored at `dest + cnt` (R216, R67). -/
def storeAt (m : Memory) (dest cnt w : Word) : Memory := afterStores (storeSteps dest cnt w) m

/-- The stores of a popped word: none where it does not go to host memory. -/
def sinkSteps (sink : Sink) (cnt w : Word) : List (Memory → Memory) :=
  match sink with
  | .discard => []
  | .capture => []
  | .memory dest => storeSteps dest cnt w

/-- Stores one after the other, each a whole one (20_memory.md R72). -/
def runStores : List (Memory → Memory) → Op Unit
  | [] => pure ()
  | f :: fs => do
    effect fun s => s.setMem (f s.mem)
    runStores fs

/-- Store (R216). -/
def storeWord (sink : Sink) (w : Word) : Op Unit := do
  let cnt ← peek (·.transport.xcnt.val)
  runStores (sinkSteps sink cnt w)

/-- XCNT <- XCNT + 4 (R215). -/
def bumpCount : Op Unit := change fun s =>
  s.setTransport { s.transport with xcnt := .holding (s.transport.xcnt.val + 4) }

/-- Pop one word, store it, count it (R215). -/
def popAndStore (sink : Sink) : Op Word := do
  let w ← popFifo
  storeWord sink w
  bumpCount
  pure w

/-- The loop condition of R215 on the latest sample. -/
def pollMore (x : Sample) (s : State) : Bool :=
  x.busy && decide (s.transport.xcnt.val.toNat < s.transport.xlen.val.toNat)

/-- The controller will answer busy and not ready for ever (R219). -/
def stalled (s : State) : Bool := s.env.status.isEmpty && s.env.statusRest.busy && !s.env.statusRest.ready

/-- The poll loop (R215): `idle` counts the consecutive samples that popped nothing (60_exceptions.md R294) and `got`
is the last word popped. The fuel bounds the iterations: `pollFuel` is always enough, since a loop that would spin for
ever is seen by `stalled`; running out of it would be that spin. -/
def pollLoop (sink : Sink) : Nat → Sample → Nat → Option Word → Op (Option Word)
  | 0, _, _, _ => fun s => .error (unsatisfied s.cfg.pollBound .pollLoop) s
  | n + 1, latest, idle, got => fun s =>
    if !pollMore latest s then .ok got s
    else if stalled s then .error (unsatisfied s.cfg.pollBound .pollLoop) s
    else
      match sampleStatus .pollLoop idle s with
      | .error e u => .error e u
      | .ok x u =>
        if x.ready then
          match popAndStore sink u with
          | .error e v => .error e v
          | .ok w v => pollLoop sink n x 0 (some w) v
        else pollLoop sink n x (idle + 1) got u

/-- Enough iterations for the poll loop: each one but the last two takes a given sample or pops a word of the transfer.
-/
def pollFuel (s : State) : Nat := s.env.status.length + s.transport.xlen.val.toNat / 4 + 2

/-- PollLoop() with its sample before the loop (R215). -/
def runPollLoop (sink : Sink) : Op (Option Word) := do
  let x ← sampleStatus .pollLoop 0
  let fuel ← peek pollFuel
  pollLoop sink fuel x 1 none

/-- The loop ended short: XCNT < XLEN (R217). -/
def short (s : State) : Bool := decide (s.transport.xcnt.val.toNat < s.transport.xlen.val.toNat)

/-- ShortReadEpilogue (R217): wait for one more ready pulse, the settle delay, force-deactivate; the word is not
popped. -/
def shortReadEpilogue : Op Unit := do
  awaitStatus .epilogue (·.ready)
  let t ← peek (·.cfg.settleDelay)
  delay t
  call .ctrDeactivate

/-- The epilogue, exactly when the loop ended short (R210, R217). -/
def epilogueIfShort : Op Unit := fun s => if short s then shortReadEpilogue s else .ok () s

/-- FinalWait (R218). -/
def finalWait : Op Unit := awaitStatus .finalWait (fun x => !x.busy)

/-- The transfer registers as a request sets them, before the loop (R210 to R213). -/
def transferRegs (cfg : Config) (c : Quad) (pagesize blocks : Word) : TransportUnit where
  ccmd := .holding c
  xpage := .holding (pageClass pagesize)
  xcode := .holding (pageCodeOf cfg.pageCode (pageClass pagesize))
  xblocks := .holding (minOneBlock blocks)
  xlen := .holding (BitVec.ofNat 32 (transferLength pagesize blocks))
  xcnt := .holding 0

/-- The sequence of CTR.XFER (R210): it answers the last word popped. -/
def transfer (c : Quad) (pagesize blocks : Word) (sink : Sink) : Op (Option Word) := do
  change fun s => s.setTransport (transferRegs s.cfg c pagesize blocks)
  call (.ctrCmdWrite c)
  let r ← peek (·.transport)
  call (.ctrStart r.xcode.val r.xblocks.val)
  let got ← runPollLoop sink
  epilogueIfShort
  finalWait
  pure got

/-- The operation CTR.XFER with its response n = XCNT (R101, R210). -/
def transferOp (c : Quad) (pagesize blocks : Word) (sink : Sink) : Op Response := do
  let _ ← transfer c pagesize blocks sink
  peek fun s => .count s.transport.xcnt.val

/-- CTR.XFER as a request: refused before anything else when XLEN does not fit 32 bits (R105, R213, R286). -/
def xferRequest (c : Quad) (pagesize blocks : Word) (sink : Sink) (s : State) : Host.Outcome State Fault Refusal :=
  if 2 ^ 32 ≤ transferLength pagesize blocks then .refused .lengthOverflow
  else perform (transferOp c pagesize blocks sink) s

/-- CTR.XFER (R210). -/
def execCtrXfer (c0 c1 c2 c3 pagesize blocks : Word) (dv : BitVec 1) (dest : Word) (s : State) :
    Host.Outcome State Fault Refusal :=
  xferRequest ⟨c0, c1, c2, c3⟩ pagesize blocks (sinkOf dv dest) s

/-- CTR.SEND: CTR.XFER c0:c1:c2:c3, 0, 1, NULL; `dest` is ignored because dv = 0 (30_encoding.md R91, R103). -/
def execCtrSend (c0 c1 c2 c3 dest : Word) (s : State) : Host.Outcome State Fault Refusal :=
  xferRequest ⟨c0, c1, c2, c3⟩ 0 1 (sinkOf 0 dest) s

end Sys2Proof.Machine
end

