-- ==== Sys2Proof/Machine/Unlock.lean ====
section
/-! DEFINITION. The two unlock sequences (46_unlock_sequences.md), with the meanings of NTR.UNLOCK, CTR.UNLOCK and of
the sector-read frame row. -/

namespace Sys2Proof.Machine

/-- PHASE <- p (10_state.md R34). -/
def putPhase (p : Phase) : Op Unit := change fun s => s.setSeq { s.seq with phase := p }

/-- IDWORD, an input (R36). -/
def readIdword : Op Word := readReg .idword (·.inputs.idword)

/-- CAPRESP, an input (R36). -/
def readCapresp : Op Word := readReg .capresp (·.inputs.capresp)

/-- SMALLGEO from IDWORD (R242). -/
def setGeometry : Op Unit := do
  let id ← readIdword
  change fun s => s.setSeq { s.seq with smallgeo := smallGeometry id }

/-- Setup (R242). -/
def setup (base : Table) : Op Unit := do
  setGeometry
  let code ← readReg .gamecode (·.inputs.gamecode)
  ksInit base code 0
  sesSeed

/-- Transmit EFRAME, expecting no response (R243). -/
def sendEframe (n : Nat) : Op (List Byte) := do
  let f ← peek (·.command.eframe.val)
  ntrSend f n

/-- StepActivateKey1 (R244). -/
def stepActivateKey1 (gen : BitVec 1) : Op Unit := do
  actKey1 gen
  let _ ← sendEframe 0

/-- The calibrated delay (R246). -/
def calibrated : Op Unit := do
  let t ← readReg .timing (·.inputs.timing)
  delay (calibratedDelay t)

/-- The delay and resend of large geometry: the EFRAME already built (R245). -/
def delayAndResend : Op Unit := do
  calibrated
  let _ ← sendEframe 0

/-- StepActivateSecure (R245). -/
def stepActivateSecure : Op Unit := do
  let op ← peek (·.cfg.opActivateSec)
  cmdBuild op 0
  let _ ← sendEframe 0
  let id ← readIdword
  onlyIf (largeGeometry id) delayAndResend

/-- StepSeed (R247). -/
def stepSeed : Op Unit := do
  let idx ← readReg .seedidx (·.inputs.seedidx)
  let cfg ← peek (·.cfg)
  let ses ← peek (·.command.ses)
  seedWrite (seedX cfg (seedConstant cfg idx) ses.q0 ses.q1) (seedY cfg)

/-- The word of four response bytes, least significant first (R248, R251). -/
def wordAt (bytes : List Byte) (j : Nat) : Word :=
  wordOfBytes (bytes.getD (4 * j) 0) (bytes.getD (4 * j + 1) 0) (bytes.getD (4 * j + 2) 0) (bytes.getD (4 * j + 3) 0)

/-- SECID and its comparison with IDWORD: a mismatch is logged and the sequence goes on (R248, R282). -/
def compareChipid (got id : Word) : Op Unit := do
  change fun s => s.setSeq { s.seq with secid := .holding got, idMismatch := idMismatchAfter s.seq.idMismatch got id }
  onlyIf (got != id) (logEntry (.mismatchChipid id got))

/-- StepVerify (R248). -/
def stepVerify : Op Unit := do
  let op ← peek (·.cfg.opSecureChipid)
  cmdBuild op 0
  let id ← readIdword
  onlyIf (largeGeometry id) calibrated
  let bytes ← sendEframe 4
  compareChipid (wordAt bytes 0) id

/-- StepDataMode (R249). -/
def stepDataMode : Op Unit := do
  let op ← peek (·.cfg.opDataMode)
  cmdBuild op 0
  let _ ← sendEframe 0

/-- A sector read: the unencrypted frame ReadFrame(a), answered by `n` bytes (R250, R251). -/
def sectorRead (a : Word) (n : Nat) : Op (List Byte) := do
  let f ← peek fun s => readFrame s.cfg a
  ntrSend f n

/-- StepValidationRead (R250): the bytes go to the log unexamined. -/
def stepValidationRead : Op Unit := do
  let a ← peek (·.cfg.validationOffset)
  let n ← peek (·.cfg.validationLen)
  let v ← sectorRead a n
  logEntry (.validation v)

/-- Words `j` and up of a granule into SA from word `i`, `n` of them (R251). -/
def fillArea : Nat → Nat → Nat → List Byte → Area → Area
  | 0, _, _, _, a => a
  | n + 1, i, j, bytes, a => fillArea n (i + 1) (j + 1) bytes (areaSet a i (wordAt bytes j))

/-- One granule of the bulk read: `g` bytes at byte offset `off` of the region (R251). The cartridge address SA_OFFSET +
off is a 32-bit word, so the sum is modulo 2^32 (DESIGN CHOICE, log 34). -/
def readGranule (g off : Nat) : Op Unit := do
  let base ← peek (·.cfg.saOffset)
  let bytes ← sectorRead (base + BitVec.ofNat 32 off) g
  change fun s => s.setArea (fillArea (g / 4) (off / 4) 0 bytes s.area)

/-- `n` granules from offset `off` up (R251). -/
def readGranules (g : Nat) : Nat → Nat → Op Unit
  | 0, _ => pure ()
  | n + 1, off => do
    readGranule g off
    readGranules g n (off + g)

/-- StepBulkRead (R251): 0x4000 bytes in granules. -/
def stepBulkRead : Op Unit := do
  let small ← peek (·.seq.smallgeo)
  readGranules (granule small) (0x4000 / granule small) 0

/-- NTR.UNLOCK once it is accepted (R240). -/
def ntrUnlock (gen : BitVec 1) (base : Table) : Op Unit := do
  setup base
  stepActivateKey1 gen
  putPhase .keyedRandom
  stepActivateSecure
  putPhase .secureKeyed
  stepSeed
  stepVerify
  stepDataMode
  putPhase .dataMode
  putPhase .reading
  stepValidationRead
  stepBulkRead

/-- NTR.UNLOCK (R240): refused unless PHASE is Raw (R241). -/
def execNtrUnlock (gen : BitVec 1) (s : State) : Host.Outcome State Fault Refusal :=
  if s.seq.phase = .raw then withBase gen s fun base => perform (do ntrUnlock gen base; pure .done) s
  else .refused .phaseOrder

/-- Whether `a` is the start of a granule of the protected region: SA_OFFSET + off, off a multiple of `g` below 0x4000
(R251), the difference of addresses being modulo 2^32 (log 34). -/
def granuleOffset (cfg : Config) (g : Nat) (a : Word) : Option Nat :=
  let off := (a - cfg.saOffset).toNat
  if off < 0x4000 ∧ off % g = 0 then some off else none

/-- The bytes of a sector read driven by hand: VALIDATION_LEN at VALIDATION_OFFSET, else a granule (R250, R251, R253). The
granule is SMALLGEO's as it stands, which NTR.UNLOCK alone writes: 0x200 bytes after a reset, whatever the cartridge's
geometry (DESIGN CHOICE, log 15). -/
def sectorLength (a : Word) (s : State) : Nat :=
  if a = s.cfg.validationOffset then s.cfg.validationLen else granule s.seq.smallgeo

/-- The log after a sector read driven by hand: the validation bytes go to it unexamined (R250). -/
def logAfterSector (cfg : Config) (a : Word) (v : List Byte) (log : List LogEntry) : List LogEntry :=
  if a = cfg.validationOffset then log ++ [.validation v] else log

/-- SA after a granule of `g` bytes read at `a` by hand: filled when it is one of the protected region's (R251). -/
def areaAfterGranule (cfg : Config) (g : Nat) (a : Word) (v : List Byte) (area : Area) : Area :=
  match granuleOffset cfg g a with
  | some off => fillArea (g / 4) (off / 4) 0 v area
  | none => area

/-- SA after a sector read driven by hand: the validation read leaves it (R250, R251). -/
def areaAfterSector (cfg : Config) (g : Nat) (a : Word) (v : List Byte) (area : Area) : Area :=
  if a = cfg.validationOffset then area else areaAfterGranule cfg g a v area

/-- A sector read driven by hand (R253, log 15): the validation read at VALIDATION_OFFSET, else a granule. -/
def dataRead (a : Word) : Op Response := do
  let n ← peek (sectorLength a)
  let v ← sectorRead a n
  change fun s => s.setLog (logAfterSector s.cfg a v s.log)
  change fun s => s.setArea (areaAfterSector s.cfg (granule s.seq.smallgeo) a v s.area)
  pure (Response.bytes v)

/-- FRAME.DATA_READ: the sector-read frame ReadFrame(a), not passed through Seal, where ReadFrame gives this frame
(R250, log 14, log 15). -/
def execFrameDataRead (a : Word) (s : State) : Host.Outcome State Fault Refusal :=
  if readFrame s.cfg a = 0xB7#8 ++ a ++ 0#24 then perform (dataRead a) s else .refused .frameNotBuilt

/-- SECKEY_INDEX: the parameter, or CAPRESP by default (R261, D33); a natural number, its width not being in the source
(91_not_in_source.md N3; DESIGN CHOICE, log 31). -/
def secKeyIndex : Op Nat := do
  let given ← peek (·.cfg.secKeyIndex)
  match given with
  | some v => pure v
  | none => do
    let cap ← readCapresp
    pure cap.toNat

/-- ProgramSeed (R261). -/
def programSeed : Op Unit := do
  let v ← secKeyIndex
  ctrSecKey v
  let q ← peek (·.aes.aesout.val)
  ctrSecSeed q

/-- AESOUT[2] and AESOUT[3] become the byte-swapped challenge words (R262). -/
def putChallenge (ch0 ch1 : Word) : Op Unit := change fun s =>
  s.setAes { s.aes with
    aesout := .holding { s.aes.aesout.val with w2 := bswap32 ch0, w3 := bswap32 ch1 } }

/-- A captured word, or a free value when the transfer ended short (R267, log 21). -/
def capturedWord (got : Option Word) : Op Word := fun s =>
  match got with
  | some w => .ok w s
  | none => .ok (Config.freeXferWord s.env.freeCtr) (s.setEnv s.env.nextFree)

/-- XferWord(c) (R267): page size 4, one block, the popped word captured. -/
def xferWord (c : Quad) : Op Word := do
  let got ← transfer c 4 1 .capture
  capturedWord got

/-- RESP[0] <- v (10_state.md R43). -/
def putResp0 (v : Word) : Op Unit := change fun s => s.setSeq { s.seq with resp0 := .holding v }

/-- RESP[1] <- v (R43). -/
def putResp1 (v : Word) : Op Unit := change fun s => s.setSeq { s.seq with resp1 := .holding v }

/-- CTR.XFER CMD_CONFIRM, 0, 1, NULL (R265). -/
def confirm (ch0 ch1 : Word) : Op Unit := do
  let c ← peek fun s => cmdConfirm s.cfg ch0 ch1
  let _ ← transfer c 0 1 .discard

/-- A failed comparison: the sticky flag and one log entry (R260, R282, R283). -/
def responseMismatched (r0 r1 id cap : Word) : Op Unit := do
  change fun s => s.setSeq { s.seq with respMismatch := respMismatchAfter s.seq.respMismatch r0 r1 id cap }
  logEntry (responseMismatch r0 r1 id cap)

/-- The comparison of both answers (R264, R265; log 20). -/
def compareAnswers (ch0 ch1 r0 r1 : Word) : Op Unit := do
  let id ← readIdword
  let cap ← readCapresp
  if answersMatch r0 r1 id cap then confirm ch0 ch1 else responseMismatched r0 r1 id cap

/-- One resend of the first challenge command, and its delay (R266). -/
def resend (ch0 ch1 : Word) : Op Unit := do
  let c ← peek fun s => cmdChalA s.cfg ch0 ch1
  let v ← xferWord c
  putResp0 v
  let t ← peek (·.cfg.retryDelay)
  delay t

/-- `n` resends (R266). -/
def resends (ch0 ch1 : Word) : Nat → Op Unit
  | 0 => pure ()
  | n + 1 => do
    resend ch0 ch1
    resends ch0 ch1 n

/-- The two challenge/response commands (R264): both answers. -/
def askChallenges (ch0 ch1 : Word) : Op (Word × Word) := do
  let a ← peek fun s => cmdChalA s.cfg ch0 ch1
  let r0 ← xferWord a
  putResp0 r0
  let b ← peek fun s => cmdChalB s.cfg ch0 ch1
  let r1 ← xferWord b
  putResp1 r1
  pure (r0, r1)

/-- CTR.UNLOCK (R260). -/
def ctrUnlock (dev : BitVec 1) : Op Unit := do
  aesSession dev
  let ch0 ← draw
  let ch1 ← draw
  programSeed
  putChallenge ch0 ch1
  programSeed
  let r ← askChallenges ch0 ch1
  compareAnswers ch0 ch1 r.1 r.2
  resends ch0 ch1 5

/-- CTR.UNLOCK (R260). -/
def execCtrUnlock (dev : BitVec 1) (s : State) : Host.Outcome State Fault Refusal :=
  perform (do ctrUnlock dev; pure .done) s

end Sys2Proof.Machine
end

