-- ==== Sys2Proof/Machine/Dispatch.lean ====
section
/-! DEFINITION. exec: one arm per constructor of Instr, each one direct call of its meaning. -/

namespace Sys2Proof.Machine

def exec (i : Instr) (s : State) : Host.Outcome State Fault Refusal :=
  match i with
  | .k1Enc w0 w1 => Sys2Proof.Machine.execK1Enc w0 w1 s
  | .k1Dec w0 w1 => Sys2Proof.Machine.execK1Dec w0 w1 s
  | .ksInit code stage gen => Sys2Proof.Machine.execKsInit code stage gen s
  | .sesSeed => Sys2Proof.Machine.execSesSeed s
  | .cmdActkey1 gen => Sys2Proof.Machine.execCmdActkey1 gen s
  | .cmdBuild op blk => Sys2Proof.Machine.execCmdBuild op blk s
  | .saDecrypt code gen => Sys2Proof.Machine.execSaDecrypt code gen s
  | .aesSession dev => Sys2Proof.Machine.execAesSession dev s
  | .ctrXfer c0 c1 c2 c3 pagesize blocks dv dest => Sys2Proof.Machine.execCtrXfer c0 c1 c2 c3 pagesize blocks dv dest s
  | .ntrUnlock gen => Sys2Proof.Machine.execNtrUnlock gen s
  | .ctrUnlock dev => Sys2Proof.Machine.execCtrUnlock dev s
  | .cmdActsec => Sys2Proof.Machine.execCmdActsec s
  | .cmdChipid => Sys2Proof.Machine.execCmdChipid s
  | .cmdSecread blk => Sys2Proof.Machine.execCmdSecread blk s
  | .cmdDatamode => Sys2Proof.Machine.execCmdDatamode s
  | .ksLight code gen => Sys2Proof.Machine.execKsLight code gen s
  | .ksFull code gen => Sys2Proof.Machine.execKsFull code gen s
  | .ctrSend c0 c1 c2 c3 dest => Sys2Proof.Machine.execCtrSend c0 c1 c2 c3 dest s
  | .frameActivateKey1G0 p q c e => Sys2Proof.Machine.execFrameActivateKey1G0 p q c e s
  | .frameActivateKey1G1 p q c e => Sys2Proof.Machine.execFrameActivateKey1G1 p q c e s
  | .frameActivateSec b p q c => Sys2Proof.Machine.execFrameActivateSec b p q c s
  | .frameSecureChipid b p q c => Sys2Proof.Machine.execFrameSecureChipid b p q c s
  | .frameSecureRead b p q c => Sys2Proof.Machine.execFrameSecureRead b p q c s
  | .frameDataMode b p q c => Sys2Proof.Machine.execFrameDataMode b p q c s
  | .frameDataRead a => Sys2Proof.Machine.execFrameDataRead a s

end Sys2Proof.Machine
end

