-- ==== Sys2Proof/Machine/HostPort.lean ====
section
/-! DEFINITION. The host's side (10_state.md R26, R36): the read ports, the host's and collaborators' writes, the
operations it asks for, the external reset, and what the next host event is. -/

namespace Sys2Proof.Machine

/-- A register's value at a read port; none when nothing has written it (R40, R41). -/
def portReg {n : Nat} (r : Reg (BitVec n)) : Option Nat := if r.written then some r.val.toNat else none

/-- One word of a four-word register. -/
def Quad.word (q : Quad) (i : Fin 4) : Word :=
  if i.val = 0 then q.w0 else if i.val = 1 then q.w1 else if i.val = 2 then q.w2 else q.w3

/-- One word of a four-word register at a read port. -/
def portQuad (r : Reg Quad) (i : Fin 4) : Option Nat := if r.written then some (Quad.word r.val i).toNat else none

/-- A field of SES as a number (R28). -/
def sesField (x : Session) : SesField → Nat
  | .p0 => x.p0.toNat
  | .p1 => x.p1.toNat
  | .cnt => x.cnt.toNat
  | .blki => x.blki.toNat
  | .q0 => x.q0.toNat
  | .q1 => x.q1.toNat

/-- A word of K (R22). -/
def keyWord (k : KeyCode) (i : Fin 3) : Word := if i.val = 0 then k.k0 else if i.val = 1 then k.k1 else k.k2

/-- The value of a read port, none when the element holds no value (R20, R26, R40, R41). -/
def portValue (s : State) : Port → Option Nat
  | .t i => if s.cipher.tvalid then some (s.cipher.sched.t[i]).toNat else none
  | .k i => if s.cipher.tvalid then some (keyWord s.cipher.sched.k i).toNat else none
  | .tvalid => some s.cipher.tvalid.toNat
  | .blk i => if i.val = 0 then portReg s.cipher.blk0 else portReg s.cipher.blk1
  | .ses f => if s.command.svalid then some (sesField s.command.ses f) else none
  | .svalid => some s.command.svalid.toNat
  | .pframe => portReg s.command.pframe
  | .eframe => portReg s.command.eframe
  | .sa i => portReg s.area[i]
  | .aesin i => portReg s.aes.aesin[i]
  | .aesout i => portQuad s.aes.aesout i
  | .macv => some s.aes.macv.toNat
  | .ccmd i => portQuad s.transport.ccmd i
  | .xpage => portReg s.transport.xpage
  | .xcode => portReg s.transport.xcode
  | .xblocks => portReg s.transport.xblocks
  | .xlen => portReg s.transport.xlen
  | .xcnt => portReg s.transport.xcnt
  | .phase => some (phaseNumber s.seq.phase)
  | .secid => portReg s.seq.secid
  | .resp i => if i.val = 0 then portReg s.seq.resp0 else portReg s.seq.resp1
  | .smallgeo => some s.seq.smallgeo.toNat
  | .idMismatch => some s.seq.idMismatch.toNat
  | .respMismatch => some s.seq.respMismatch.toNat

/-- The element E_UNINIT names at a read port (R295). -/
def portElement : Port → Element
  | .t _ => .table
  | .k _ => .table
  | .ses _ => .session
  | p => .port p

/-- The answer of a read port: its value, or E_UNINIT (R26, R41). -/
def readPort (p : Port) (s : State) : State :=
  match portValue s p with
  | some v => s.setResponse (some (.port v))
  | none => takeStop (.event (.uninit (portElement p))) s

/-- A host event that asks for no operation, with the inbox already moved on (R26, R36, R310). -/
def hostEvent (e : HostEvent) (s : State) : State :=
  match e with
  | .request _ => s
  | .frame _ => s
  | .call _ => s
  | .cut _ _ _ => s
  | .writeSa i w => s.setArea (s.area.set i.val (.holding w) i.isLt)
  | .writeAesin i w => s.setAes { s.aes with aesin := s.aes.aesin.set i.val (.holding w) i.isLt }
  | .writeGamecode w => s.setInputs { s.inputs with gamecode := .holding w }
  | .writeTiming n => s.setInputs { s.inputs with timing := .holding n }
  | .writeSeedidx n => s.setInputs { s.inputs with seedidx := .holding n }
  | .writeIdword w => s.setInputs { s.inputs with idword := .holding w }
  | .writeCapresp w => s.setInputs { s.inputs with capresp := .holding w }
  | .readPort p => readPort p s
  | .readLog => s.setResponse (some (.log s.log))
  | .reset env => resetEvent env s

/-- The instruction of a decoded word under the parameters. The CMD rows of the opcode table carry the default opcode
values, so under another value the row's word is no pseudo-operation's but plain CMD.BUILD with the numbers it carries
(30_encoding.md R103, log 13). -/
def spelledUnder (cfg : Config) : Instr → Instr
  | .cmdActsec => if cfg.opActivateSec = 0x40 then .cmdActsec else .cmdBuild 0x40 0
  | .cmdChipid => if cfg.opSecureChipid = 0x10 then .cmdChipid else .cmdBuild 0x10 0
  | .cmdSecread blk => if cfg.opSecureRead = 0x20 then .cmdSecread blk else .cmdBuild 0x20 blk
  | .cmdDatamode => if cfg.opDataMode = 0xA0 then .cmdDatamode else .cmdBuild 0xA0 0
  | .k1Enc w0 w1 => .k1Enc w0 w1
  | .k1Dec w0 w1 => .k1Dec w0 w1
  | .ksInit code stage gen => .ksInit code stage gen
  | .sesSeed => .sesSeed
  | .cmdActkey1 gen => .cmdActkey1 gen
  | .cmdBuild op blk => .cmdBuild op blk
  | .saDecrypt code gen => .saDecrypt code gen
  | .aesSession dev => .aesSession dev
  | .ctrXfer c0 c1 c2 c3 pagesize blocks dv dest => .ctrXfer c0 c1 c2 c3 pagesize blocks dv dest
  | .ntrUnlock gen => .ntrUnlock gen
  | .ctrUnlock dev => .ctrUnlock dev
  | .ksLight code gen => .ksLight code gen
  | .ksFull code gen => .ksFull code gen
  | .ctrSend c0 c1 c2 c3 dest => .ctrSend c0 c1 c2 c3 dest
  | .frameActivateKey1G0 p q c e => .frameActivateKey1G0 p q c e
  | .frameActivateKey1G1 p q c e => .frameActivateKey1G1 p q c e
  | .frameActivateSec b p q c => .frameActivateSec b p q c
  | .frameSecureChipid b p q c => .frameSecureChipid b p q c
  | .frameSecureRead b p q c => .frameSecureRead b p q c
  | .frameDataMode b p q c => .frameDataMode b p q c
  | .frameDataRead a => .frameDataRead a

/-- A request as the block reads it (R90, R103). -/
def readRequest (cfg : Config) (r : Request) : Except Reject Instr :=
  match decodeRequest r with
  | .ok i => .ok (spelledUnder cfg i)
  | .error why => .error why

/-- Perform an instruction as the decoder read it, or refuse what it rejected (30_encoding.md R90, R93). -/
def runDecoded (d : Except Reject Instr) (s : State) : Host.Outcome State Fault Refusal :=
  match d with
  | .ok i => exec i s
  | .error why => .refused (.undecodable why)

/-- `NtrSend(EFRAME, n)` by hand (42_ntr_command.md R168): E_UNINIT when no frame has been built (R41). -/
def sendByHand (n : Nat) : Op Response := do
  let f ← readReg (.port .eframe) (·.command.eframe)
  let b ← ntrSend f n
  pure (.bytes b)

/-- `NtrSend(ReadFrame(a), n)` by hand (46_unlock_sequences.md R250, R251, R253): the bytes are the host's to place. -/
def readSectorByHand (a : Word) (n : Nat) : Op Response := do
  let b ← sectorRead a n
  pure (.bytes b)

/-- A primitive called by hand, with its answer (R168, R253; log 33). -/
def callByHand (c : HostCall) : Op Response :=
  match c with
  | .sendEframe n => sendByHand n
  | .readSector a n => readSectorByHand a n
  | .seedWrite x y => do seedWrite x y; pure .done
  | .ctrSecKey v => do ctrSecKey v; pure .done
  | .ctrSecSeed q => do ctrSecSeed q; pure .done
  | .delay t => do delay t; pure .done

/-- Carry out what the host asks for. -/
def runOperation (o : Operation) (s : State) : Host.Outcome State Fault Refusal :=
  match o with
  | .request r => runDecoded (readRequest s.cfg r) s
  | .frame f => runDecoded (decodeFrame f) s
  | .call c => perform (callByHand c) s

/-- The state in which the external reset finds the block: where the operation stopped or ended, or as it was when the
operation was refused (60_exceptions.md R288). -/
def reached (o : Host.Outcome State Fault Refusal) (s : State) : State :=
  match o with
  | .next t => t
  | .fault _ => s
  | .refused _ => s

/-- The external reset in the middle of an operation: after `n` of the effects that outlast a reset, or in the
operation's endless wait, or at its end (R285, R310; log 25). -/
def cutShort (o : Operation) (n : Nat) (e : Env) (s : State) : State :=
  let t := s.setResetIn (some n)
  resetEvent e (reached (runOperation o t) t)

/-- What the block finds when it looks to the host. -/
inductive Fetched where
  /-- Nothing: it waits (R40). -/
  | idle
  /-- Something to carry out, and the state with it taken. -/
  | run (o : Operation) (s : State)
  /-- Another host event, carried out. -/
  | other (s : State)
  /-- Nothing reaches it: it hangs (R281). -/
  | stuck (w : Wait)

/-- The next host event: a block that hangs sees only a reset (R281, R310), else the oldest event is taken. -/
def fetch (s : State) : Fetched :=
  match s.hung, s.inbox with
  | some _, .reset e :: rest => .other (hostEvent (.reset e) (s.setInbox rest))
  | some w, _ => .stuck w
  | none, [] => .idle
  | none, .request r :: rest => .run (.request r) (s.setInbox rest)
  | none, .frame f :: rest => .run (.frame f) (s.setInbox rest)
  | none, .call c :: rest => .run (.call c) (s.setInbox rest)
  | none, .cut o n e :: rest => .other (cutShort o n e (s.setInbox rest))
  | none, e :: rest => .other (hostEvent e (s.setInbox rest))

/-- The bits of an opcode-table row as a host event: a 64-bit row is a frame, every other a request (log 14). -/
def rowEvent (nbits w : Nat) : HostEvent :=
  if nbits = 64 then .frame (BitVec.ofNat 64 w) else .request ⟨nbits, w⟩

/-- The state in which the row of `nbits` bits `w` is the next thing the block takes. -/
def placeRow (s : State) (nbits w : Nat) : State := (s.setHung none).setInbox (rowEvent nbits w :: s.inbox)

end Sys2Proof.Machine
end

