-- ==== Sys2Proof/Machine/Step.lean ====
section
/-! DEFINITION. One step: the block takes the host's next event (10_state.md R26). -/

namespace Sys2Proof.Machine

/-- One step: perform the next request, carry out the next host event, wait when there is none (log 26), or hang. -/
def step (s : State) : Host.Outcome State Fault Refusal :=
  match fetch s with
  | .idle => .next s
  | .run o t => runOperation o t
  | .other t => .next t
  | .stuck w => .fault (.hang w)

/-- `s` with the instruction of these bits as the very next thing the block takes (log 1). -/
def State.withFetchWord (s : State) (nbits w : Nat) : State := placeRow s nbits w

end Sys2Proof.Machine
end

