-- ==== Sys2Proof/Safety.lean ====
section
/-! DEFINITION. What counts as a sound state, and the terms in which the statements about the machine are written: an
environment that answers, the table read by a number, the frames and states a build leaves, the transfer's popped
words, the commands of a trace. -/

namespace Sys2Proof.Machine

/-- A legal page size (00_scope.md R9, PAGE_SIZES). -/
def legalPage (n : Nat) : Prop := n = 0 ∨ n = 4 ∨ n = 64 ∨ n = 512 ∨ n = 1024 ∨ n = 2048 ∨ n = 4096

/-- The transfer registers are those of one CTR.XFER (10_state.md R33, 45_ctr_transport.md R210 corner case e): all
written together, the page size legal, at least one block, XLEN their product, XCNT a multiple of four up to XLEN. -/
def TransportUnit.sound (codes : PageCodes) (r : TransportUnit) : Prop :=
  (r.ccmd.written = r.xcnt.written ∧ r.xpage.written = r.xcnt.written ∧ r.xcode.written = r.xcnt.written ∧
    r.xblocks.written = r.xcnt.written ∧ r.xlen.written = r.xcnt.written) ∧
  (r.xcnt.written = true →
    legalPage r.xpage.val.toNat ∧ r.xcode.val = pageCodeOf codes r.xpage.val ∧ 1 ≤ r.xblocks.val.toNat ∧
      r.xlen.val.toNat = r.xpage.val.toNat * r.xblocks.val.toNat ∧
      r.xcnt.val.toNat ≤ r.xlen.val.toNat ∧ r.xcnt.val.toNat % 4 = 0)

/-- The invariant of every step: host memory is in its canonical form; the transfer registers are one transfer's;
PFRAME and EFRAME are written together (R30); MACV stands for an AESOUT (R32); ST.IDMISMATCH stands for a SECID (R248);
past Raw the table, the session and IDWORD are there (R34, R240); a block that hangs has given no response and has no
bound on its waits (R281, R294); between operations no reset is on its way (log 25). -/
structure State.Inv (s : State) : Prop where
  memory : Memory.wf s.mem = true
  transfer : s.transport.sound s.cfg.pageCode
  frames : s.command.pframe.written = s.command.eframe.written
  session : s.aes.macv = true → s.aes.aesout.written = true
  chipid : s.seq.idMismatch = true → s.seq.secid.written = true
  keyed : s.seq.phase ≠ .raw →
    s.cipher.tvalid = true ∧ s.command.svalid = true ∧ s.inputs.idword.written = true ∧ s.command.eframe.written = true
  silent : s.hung ≠ none → s.response = none ∧ s.cfg.pollBound = none
  uncut : s.resetIn = none

/-- Every coming wait for the AES engine, `CtrSecKey` and `CtrSecSeed` ends, POLL_BOUND is infinite, and no reset
arrives. -/
def State.promptAccepts (s : State) : Prop :=
  s.cfg.pollBound = none ∧ s.resetIn = none ∧ (∀ a ∈ s.env.accepts, a ≠ none) ∧ s.env.acceptRest ≠ none

/-- Every coming `NtrSend` returns, POLL_BOUND is infinite, and no reset arrives. -/
def State.promptReplies (s : State) : Prop :=
  s.cfg.pollBound = none ∧ s.resetIn = none ∧ (∀ r ∈ s.env.replies, r.polls ≠ none) ∧ s.env.replyRest ≠ none

/-- The CTR controller ends not busy and ready, POLL_BOUND is infinite, and no reset arrives. -/
def State.promptStatus (s : State) : Prop :=
  s.cfg.pollBound = none ∧ s.resetIn = none ∧ s.env.statusRest = ⟨false, true⟩

/-- T[i] by its number; 0 outside the table, which no rule reads (20_memory.md R60). -/
def slot (t : Table) (i : Nat) : Word := t[i]?.getD 0

/-- The sub-table function as 40_key1_cipher.md R120 writes it, on the numbers of the four bytes of z. -/
def specF (t : Table) (z : Word) : Word :=
  (slot t (0x012 + z.toNat / 2 ^ 24) + slot t (0x112 + z.toNat / 2 ^ 16 % 256)
      ^^^ slot t (0x212 + z.toNat / 2 ^ 8 % 256))
    + slot t (0x312 + z.toNat % 256)

/-- `y i` and `x i` are the words of a pass before its round i, the round of number i using slot `at i` (R121). -/
def PassWords (t : Table) (slotOf : Nat → Nat) (w0 w1 : Word) (y x : Nat → Word) : Prop :=
  y 0 = w0 ∧ x 0 = w1 ∧
    ∀ i < 16, y (i + 1) = (slot t (slotOf i) ^^^ x i) ∧
      x (i + 1) = (specF t (slot t (slotOf i) ^^^ x i) ^^^ y i)

/-- The state after K1.ENC or K1.DEC leaves `b` in BLK: BLK and the response record, nothing else (R122, R123, R101). -/
def State.withBlock (s : State) (b : Block) : State :=
  (s.setCipher { s.cipher with blk0 := .holding b.left, blk1 := .holding b.right }).setResponse
    (some (.block b.left b.right))

/-- An operation that ended with E_UNINIT before it wrote anything (R287, R295). -/
def State.uninitialised (s : State) (e : Element) : State := s.setResponse (some (.fault (.uninit e)))

/-- The PFRAME of CMD.BUILD: R94's layout with R163's pair and R164's block. -/
def specFrame (s : State) (op : BitVec 8) (blk : BitVec 16) : Frame :=
  let ses := s.command.ses
  let b := if op = s.cfg.opSecureRead then blk else ses.blki
  let p := if op = s.cfg.opActivateSec then ses.q0 else ses.p0
  let q := if op = s.cfg.opActivateSec then ses.q1 else ses.p1
  (op ||| (b.extractLsb' 12 4).zeroExtend 8) ++ b.extractLsb' 0 12 ++ p ++ q ++ ses.cnt

/-- EFRAME of a PFRAME: one forward pass on its two words (42_ntr_command.md R166). -/
def specSeal (t : Table) (f : Frame) : Frame :=
  (enc t ⟨f.extractLsb' 0 32, f.extractLsb' 32 32⟩).right ++ (enc t ⟨f.extractLsb' 0 32, f.extractLsb' 32 32⟩).left

/-- The state after CMD.BUILD op, blk: PFRAME, EFRAME, SES.CNT and the response record, nothing else (R162). -/
def State.afterBuild (s : State) (op : BitVec 8) (blk : BitVec 16) : State :=
  let ses := s.command.ses
  let e := specSeal s.cipher.sched.t (specFrame s op blk)
  (s.setCommand {
    ses := { ses with cnt := if op = s.cfg.opSecureRead ∨ s.cfg.cntIncAll = true then ses.cnt + 1 else ses.cnt }
    svalid := s.command.svalid
    pframe := .holding (specFrame s op blk)
    eframe := .holding e }).setResponse (some (.frame e))

/-- The activate-key1 frame in a state (R95, R161): OP_ACTIVATE_KEY1[gen], P0, P1, four zero bits, CNT, the next draw's
low byte. -/
def specActKey1 (s : State) (gen : BitVec 1) : Frame :=
  (if gen = 0 then s.cfg.opActivateKey1G0 else s.cfg.opActivateKey1G1) ++ s.command.ses.p0 ++ s.command.ses.p1 ++
    0#4 ++ s.command.ses.cnt ++ s.env.nextDraw.extractLsb' 0 8

/-- The state after CMD.ACTKEY1 gen: one draw, PFRAME, EFRAME and the response record, nothing else (R161). -/
def State.afterActKey1 (s : State) (gen : BitVec 1) : State :=
  ((s.setEnv s.env.afterDraw).setCommand
    { s.command with pframe := .holding (specActKey1 s gen), eframe := .holding (specActKey1 s gen) }).setResponse
    (some (.frame (specActKey1 s gen)))

/-- Whether CMD.BUILD may run: SES and T hold values (R162). -/
def State.canBuild (s : State) : Prop := s.command.svalid = true ∧ s.cipher.tvalid = true

/-- The oracle after `n` draws. -/
def Env.afterDraws (e : Env) : Nat → Env
  | 0 => e
  | n + 1 => (e.afterDraws n).afterDraw

/-- The `n`-th coming draw. -/
def Env.drawAt (e : Env) (n : Nat) : Word := (e.afterDraws n).nextDraw

/-- The session of six draws (42_ntr_command.md R160). -/
def Env.session (e : Env) : Session where
  p0 := (e.drawAt 0).extractLsb' 0 12
  p1 := (e.drawAt 1).extractLsb' 0 12
  cnt := (e.drawAt 2).extractLsb' 0 20
  blki := (e.drawAt 3).extractLsb' 0 16
  q0 := (e.drawAt 4).extractLsb' 0 12
  q1 := (e.drawAt 5).extractLsb' 0 12

/-- One schedule pass: the pre-cipher under the table as it stands, the XOR step with the key code the pre-cipher left,
the rebuild (R144); after the pass that the parameter names, the scaling (R140, R147). -/
def specPass (cfg : Config) (p : Nat) (x : Schedule) : Schedule :=
  let k := preCipher x.t x.k
  let y : Schedule := ⟨rebuild (xorStep cfg.ksXorSlots k x.t), k⟩
  if p = cfg.ksScaleAfterPass then ⟨y.t, ⟨y.k.k0, y.k.k1 <<< 1, y.k.k2 >>> 1⟩⟩ else y

/-- The result of KsInit (R140, R142, R148): two passes under LIGHT, three under FULL, from the base table and the
derived key code. -/
def specSchedule (cfg : Config) (base : Table) (code : Word) (stage : BitVec 1) : Schedule :=
  let light := specPass cfg 2 (specPass cfg 1 ⟨base, ⟨code, code >>> 1, code <<< 1⟩⟩)
  if stage = 0 then light else specPass cfg 3 light

/-- The state after KS.INIT: T, K, TVALID and the response record, nothing else (R140). -/
def State.afterSchedule (s : State) (base : Table) (code : Word) (stage : BitVec 1) : State :=
  (s.setCipher { s.cipher with sched := specSchedule s.cfg base code stage, tvalid := true }).setResponse (some .done)

/-- The words the poll loop pops (R215): from the latest sample's busy bit, over the coming samples, a ready sample
brings one word, and the loop ends when `n` words are there or a sample is not busy. After the given samples the
controller answers not busy and ready for ever. -/
def pops : List Sample → Bool → Nat → Nat
  | [], busy, n => if busy = true ∧ n ≠ 0 then 1 else 0
  | x :: xs, busy, n =>
    if busy = true ∧ n ≠ 0 then (if x.ready then pops xs x.busy (n - 1) + 1 else pops xs x.busy n) else 0

/-- The words a whole transfer of `n` words pops: one sample before the loop, then the loop (R215). -/
def transferPops (status : List Sample) (n : Nat) : Nat :=
  match status with
  | [] => 0
  | x :: xs => pops xs x.busy n

/-- The samples the poll loop leaves (R215): as `pops`, one sample taken an iteration. -/
def loopLeft : List Sample → Bool → Nat → List Sample
  | [], _, _ => []
  | x :: xs, busy, n =>
    if busy = true ∧ n ≠ 0 then (if x.ready then loopLeft xs x.busy (n - 1) else loopLeft xs x.busy n) else x :: xs

/-- The samples a wait leaves that ends at the first one meeting `goal` (45_ctr_transport.md R217, R218). -/
def waitLeft (goal : Sample → Bool) : List Sample → List Sample
  | [] => []
  | x :: xs => if goal x then xs else waitLeft goal xs

/-- The samples left after the sample before the loop and the loop (R215). -/
def polledLeft (status : List Sample) (n : Nat) : List Sample :=
  match status with
  | [] => []
  | x :: xs => loopLeft xs x.busy n

/-- The samples a whole transfer of `n` words leaves: those the loop leaves, less those of the ready wait when it ended
short and of the final wait (R210). -/
def transferLeft (status : List Sample) (n : Nat) : List Sample :=
  waitLeft (fun x => !x.busy)
    (if transferPops status n < n then waitLeft (·.ready) (polledLeft status n) else polledLeft status n)

/-- The oracle after `n` pops. -/
def Env.afterPops (e : Env) : Nat → Env
  | 0 => e
  | n + 1 => (e.afterPops n).afterPop

/-- The `n`-th coming word of the receive FIFO. -/
def Env.fifoAt (e : Env) (n : Nat) : Word := (e.afterPops n).nextWord

/-- What a transfer calls: the command, the start and, when it ended short, the settle delay and the deactivation
(R210, R214, R217). -/
def transferCalls (cfg : Config) (c : Quad) (r : TransportUnit) : List EnvCall :=
  [.ctrCmdWrite c, .ctrStart r.xcode.val r.xblocks.val] ++
    (if r.xcnt.val.toNat < r.xlen.val.toNat then [.delay cfg.settleDelay, .ctrDeactivate] else [])

/-- A CTR.XFER from state `s` that stands in wait `w` for ever, or was stopped there by POLL_BOUND: its registers are
written, its two calls made, `n` words are popped and stored, and nothing else has changed (45_ctr_transport.md R219,
60_exceptions.md R281, R294). That a hang is a state with `hung` set is the model's form of it (log 4). -/
def StandsAt (s t : State) (c : Quad) (pagesize blocks dest : Word) (dv : BitVec 1) (n : Nat) (w : Wait) : Prop :=
  t.transport = ⟨.holding c, .holding (pageClass pagesize),
    .holding (pageCodeOf s.cfg.pageCode (pageClass pagesize)), .holding (minOneBlock blocks),
    .holding (BitVec.ofNat 32 ((pageClass pagesize).toNat * (minOneBlock blocks).toNat)),
    .holding (BitVec.ofNat 32 (4 * n))⟩ ∧
  t.trace = s.trace ++ [.ctrCmdWrite c,
    .ctrStart (pageCodeOf s.cfg.pageCode (pageClass pagesize)) (minOneBlock blocks)] ∧
  (dv = 0 → t.mem = s.mem) ∧
  (dv = 1 → ∀ a : Nat, Memory.read t.mem a =
    let j := (BitVec.ofNat 32 a - dest).toNat
    if a < 2 ^ 32 ∧ j < 4 * n then some ((s.env.fifoAt (j / 4)).extractLsb' (8 * (j % 4)) 8)
    else Memory.read s.mem a) ∧
  t.env = s.env.afterPops n ∧
  (s.cfg.pollBound = none → t.hung = some w ∧ t.response = none) ∧
  (s.cfg.pollBound ≠ none → t.hung = s.hung ∧ t.response = some (.fault (.pollBound w))) ∧
  t.cfg = s.cfg ∧ t.cipher = s.cipher ∧ t.command = s.command ∧ t.area = s.area ∧ t.aes = s.aes ∧ t.seq = s.seq ∧
  t.inputs = s.inputs ∧ t.log = s.log ∧ t.dev = s.dev ∧ t.inbox = s.inbox

/-- The words that answer one XferWord: one, or none when the transfer ends short (46_unlock_sequences.md R267). -/
def Env.xferPops (e : Env) : Nat := transferPops e.status 1

/-- What XferWord returns: the popped word, or a free value when the transfer ended short (R267, log 21). -/
def Env.xferAnswer (e : Env) : Word := if e.xferPops = 0 then Config.freeXferWord e.freeCtr else e.nextWord

/-- The oracle after one XferWord: its samples taken and its word popped, or one free value used (R267). -/
def Env.afterXfer (e : Env) : Env :=
  let left := (e.afterPops e.xferPops).withStatus (transferLeft e.status 1)
  if e.xferPops = 0 then left.nextFree else left

/-- The oracle after `n` XferWords. -/
def Env.afterXfers (e : Env) : Nat → Env
  | 0 => e
  | n + 1 => (e.afterXfers n).afterXfer

/-- What an XferWord of command `c` calls (R210, R214, R217, R267). -/
def xferCalls (cfg : Config) (c : Quad) (e : Env) : List EnvCall :=
  [.ctrCmdWrite c, .ctrStart cfg.pageCode.code4 1] ++
    (if e.xferPops = 0 then [.delay cfg.settleDelay, .ctrDeactivate] else [])

/-- What `n` resends of command `c` call, each followed by RETRY_DELAY (R266). -/
def resendCalls (cfg : Config) (c : Quad) : Nat → Env → List EnvCall
  | 0, _ => []
  | n + 1, e => xferCalls cfg c e ++ [.delay cfg.retryDelay] ++ resendCalls cfg c n e.afterXfer

/-- The oracle after `n` completion waits. -/
def Env.afterAccepts (e : Env) : Nat → Env
  | 0 => e
  | n + 1 => (e.afterAccepts n).afterAccept

/-- The oracle after `n` answers of `NtrSend`. -/
def Env.afterReplies (e : Env) : Nat → Env
  | 0 => e
  | n + 1 => (e.afterReplies n).afterReply

/-- The `k`-th coming answer of `NtrSend`, of `n` bytes (R243). -/
def Env.replyAt (e : Env) (k n : Nat) : List Byte :=
  replyBytes (e.afterReplies k).nextReply.bytes (e.afterReplies k).freeCtr n

/-- What a granule read calls, `n` of them from byte offset `off` up (R251). -/
def granuleCalls (cfg : Config) (g : Nat) : Nat → Nat → List EnvCall
  | 0, _ => []
  | n + 1, off => .ntrSend (readFrame cfg (cfg.saOffset + BitVec.ofNat 32 off)) g :: granuleCalls cfg g n (off + g)

/-- Word `i` of SA; an unwritten zero outside the buffer, which no rule reads (20_memory.md R60). -/
def areaWord (a : Area) (i : Nat) : Reg Word := a[i]?.getD (.unwritten 0)

/-- Block k of SA holds the two words of `b`, both written (20_memory.md R63). -/
def HoldsBlock (a : Area) (k : Nat) (b : Block) : Prop :=
  areaWord a (2 * k) = .holding b.left ∧ areaWord a (2 * k + 1) = .holding b.right

/-- The word of four response bytes from byte 4j up, least significant first (46_unlock_sequences.md R251). -/
def byteWord (bytes : List Byte) (j : Nat) : Word :=
  bytes.getD (4 * j + 3) 0 ++ bytes.getD (4 * j + 2) 0 ++ bytes.getD (4 * j + 1) 0 ++ bytes.getD (4 * j) 0

/-- What the CCM decryption of AESIN yields: the key of R192 on the counter fields, ciphertext and MAC of R99. -/
def specSession (s : State) (dev : BitVec 1) : Quad × Bool :=
  let w := fun i : Fin 15 => s.aes.aesin[i].val
  let key := if dev = 1 then ⟨0, 0, 0, 0⟩ else keyScramble s.cfg ⟨w 0, w 1, w 2, w 3⟩
  ccmDecrypt s.cfg key ⟨w 12, w 13, w 14⟩ ⟨w 4, w 5, w 6, w 7⟩ ⟨w 8, w 9, w 10, w 11⟩

/-- The calls of one AES.SESSION: the key scrambler on a retail cartridge, then one CCM decryption (R191, R192). -/
def sessionCalls (s : State) (dev : BitVec 1) : List EnvCall :=
  let w := fun i : Fin 15 => s.aes.aesin[i].val
  let src : Quad := ⟨w 0, w 1, w 2, w 3⟩
  let dec := fun key : Quad =>
    EnvCall.ccmDecrypt key ⟨w 12, w 13, w 14⟩ ⟨w 4, w 5, w 6, w 7⟩ ⟨w 8, w 9, w 10, w 11⟩
  if dev = 1 then [dec ⟨0, 0, 0, 0⟩] else [.keyScramble src, dec (keyScramble s.cfg src)]

/-- The order in which AES.SESSION reads AESIN: the key source of a retail cartridge, the counter fields, the ciphertext,
the MAC (R190, R192; log 24). -/
def sessionReads (dev : BitVec 1) : List (Fin 15) :=
  (if dev = 1 then [] else [0, 1, 2, 3]) ++ [12, 13, 14, 4, 5, 6, 7, 8, 9, 10, 11]

/-- The words of AESIN that AES.SESSION reads have been written; a development cartridge needs no key source (R190). -/
def State.sessionReady (s : State) (dev : BitVec 1) : Prop :=
  ∀ i : Fin 15, (dev = 1 → 4 ≤ i.val) → s.aes.aesin[i].written = true

/-- The log entry of a failed MAC, if it failed (R282). -/
def macLog (ok : Bool) : List LogEntry := if ok then [] else [.mismatchMac]

/-- Perform instructions one after the other, as long as each answers a next state. -/
def execAll : List Instr → State → Option State
  | [], s => some s
  | i :: is, s =>
    match exec i s with
    | .next t => execAll is t
    | _ => none

/-- The session parameters and the block value a frame of CMD.BUILD op, blk carries (R163, R164). -/
def carries (s : State) (op : BitVec 8) (blk b : BitVec 16) (p q : BitVec 12) (c : BitVec 20) : Prop :=
  b = (if op = s.cfg.opSecureRead then blk else s.command.ses.blki) ∧
    p = (if op = s.cfg.opActivateSec then s.command.ses.q0 else s.command.ses.p0) ∧
    q = (if op = s.cfg.opActivateSec then s.command.ses.q1 else s.command.ses.p1) ∧ c = s.command.ses.cnt

/-- SEEDCONST[HDR.SEEDIDX mod SEEDCONST_LEN] (R247). -/
def seedByte (s : State) : Byte :=
  let bytes := s.cfg.seedConst0 :: s.cfg.seedConstRest
  bytes.getD (s.inputs.seedidx.val % bytes.length) 0

end Sys2Proof.Machine
end

