-- ==== Sys2Proof/Certificates/Slice0/Obligations.lean ====
section
/-! DEFINITION. The statements for the provers. Each docstring names the rules of spec/ it formalises. -/

open Sys2Proof Sys2Proof.Machine

/-- Every well-formed instruction is what the decoder reads from its own bits, with every operand at every value
(30_encoding.md R91, R92, R97, R103). Rests on the spec decision D2 (92_eei_decisions.md). -/
def Obligations.DecodeReadsEncodedInstruction : Prop :=
  ∀ i : Instr, i.wellFormed = true → decode (encode i) = .ok i

/-- No bit of an accepted bit string is dropped: encoding what the decoder read gives the bit string back, and what it
read is well-formed (R91, R93, R104). Rests on the spec decision D2 (92_eei_decisions.md). -/
def Obligations.EncodeRecoversDecodedBits : Prop :=
  ∀ (r : Request) (i : Instr), decode r = .ok i → encode i = r ∧ i.wellFormed = true

/-- A request with a reserved OPSEL, or with a nonzero must-be-zero bit, is refused (R93); a refusal carries no state.
Rests on the spec decision D2 (92_eei_decisions.md). -/
def Obligations.ReservedEncodingsRefused : Prop :=
  ∀ (s : State) (r : Request) (rest : List HostEvent), s.hung = none → s.inbox = .request r :: rest →
    r.bits < 2 ^ r.nbits → 8 ≤ r.nbits →
    (r.bits / 2 ^ (r.nbits - 8) ∉ [0x10, 0x11, 0x20, 0x30, 0x31, 0x32, 0x40, 0x50, 0x60, 0x70, 0x71] →
      step s = .refused (.undecodable .opsel)) ∧
    (∀ row ∈ [(0x20, 48, 34, 6), (0x31, 16, 1, 7), (0x40, 48, 33, 7), (0x50, 16, 1, 7), (0x60, 240, 33, 7),
        (0x70, 16, 1, 7), (0x71, 16, 1, 7)],
      r.bits / 2 ^ (r.nbits - 8) = row.1 → r.nbits = row.2.1 → r.bits / 2 ^ row.2.2.1 % 2 ^ row.2.2.2 ≠ 0 →
        step s = .refused (.undecodable .reservedBits))

/-- A few words written out from the formats of R91 and the rows of R92, R97 and R103. That the word of a CMD row is read
as the pseudo-operation (the CMD.SECREAD clause) is the model's choice, log 13, and that a 64-bit frame is read as an
instruction (the last clause) is the model's choice, log 14. Rests on the spec decision D2 (92_eei_decisions.md). -/
def Obligations.SampleWordsDecode : Prop :=
  decodeTableWord 72 0x10AABBCCDD11223344 = some (.k1Enc 0x11223344 0xAABBCCDD) ∧
  decodeTableWord 48 0x200344434241 = some (.ksInit 0x44434241 1 1) ∧
  decodeTableWord 8 0x30 = some .sesSeed ∧
  decodeTableWord 32 0x322F0004 = some (.cmdBuild 0x2F 4) ∧
  decodeTableWord 32 0x32200004 = some (.cmdSecread 4) ∧
  decodeTableWord 48 0x400144434241 = some (.saDecrypt 0x44434241 1) ∧
  decodeTableWord 16 0x5001 = some (.aesSession 1) ∧
  decodeTableWord 16 0x7100 = some (.ctrUnlock 0) ∧
  decodeTableWord 64 0x20004ABCDEF45678 = some (.frameSecureRead 4 0xABC 0xDEF 0x45678)

/-- A step takes the oldest host event and, where the decoder reads an instruction, performs exactly that instruction;
where it rejects, the step refuses with the decoder's reason (10_state.md R26, 30_encoding.md R90, R93). Requests and
frames alike (frames as events of the host are the model's choice, log 14). The word of a CMD row under another value of
its opcode parameter is performed as plain CMD.BUILD with the word's own numbers (log 13): the same word, and no change
under the default values. Rests on the spec decisions D1, D2 (92_eei_decisions.md). -/
def Obligations.StepRunsDecodedInstruction : Prop :=
  ∀ (s : State) (rest : List HostEvent), s.hung = none →
    (∀ r i, s.inbox = .request r :: rest → decodeRequest r = .ok i →
      step s = exec (spelledUnder s.cfg i) (s.setInbox rest)) ∧
    (∀ i, (spelledUnder s.cfg i = i ∨ ∃ op blk, spelledUnder s.cfg i = .cmdBuild op blk) ∧
      encode (spelledUnder s.cfg i) = encode i) ∧
    (s.cfg.opActivateSec = 0x40 → s.cfg.opSecureChipid = 0x10 → s.cfg.opSecureRead = 0x20 → s.cfg.opDataMode = 0xA0 →
      ∀ i, spelledUnder s.cfg i = i) ∧
    (∀ f i, s.inbox = .frame f :: rest → decodeFrame f = .ok i → step s = exec i (s.setInbox rest)) ∧
    (∀ r why, s.inbox = .request r :: rest → decodeRequest r = .error why → step s = .refused (.undecodable why)) ∧
    (∀ f why, s.inbox = .frame f :: rest → decodeFrame f = .error why → step s = .refused (.undecodable why))

/-- The pseudo-operations are fixed spellings (R103): each does what the operation it stands for does, the CMD ones with
the opcode parameters' values, and each has the bits of that operation, those of the CMD rows being the bits under the
default opcode values (log 13). Rests on the spec decision D37 (92_eei_decisions.md). -/
def Obligations.PseudoOperationsExpand : Prop :=
  ∀ (s : State) (code c0 c1 c2 c3 dest : Word) (gen : BitVec 1) (blk : BitVec 16),
    (encode (.ksLight code gen) = encode (.ksInit code 0 gen) ∧
      exec (.ksLight code gen) s = exec (.ksInit code 0 gen) s) ∧
    (encode (.ksFull code gen) = encode (.ksInit code 1 gen) ∧
      exec (.ksFull code gen) s = exec (.ksInit code 1 gen) s) ∧
    (encode .cmdActsec = encode (.cmdBuild 0x40 0) ∧ exec .cmdActsec s = exec (.cmdBuild s.cfg.opActivateSec 0) s) ∧
    (encode .cmdChipid = encode (.cmdBuild 0x10 0) ∧
      exec .cmdChipid s = exec (.cmdBuild s.cfg.opSecureChipid 0) s) ∧
    (encode (.cmdSecread blk) = encode (.cmdBuild 0x20 blk) ∧
      exec (.cmdSecread blk) s = exec (.cmdBuild s.cfg.opSecureRead blk) s) ∧
    (encode .cmdDatamode = encode (.cmdBuild 0xA0 0) ∧
      exec .cmdDatamode s = exec (.cmdBuild s.cfg.opDataMode 0) s) ∧
    (encode (.ctrSend c0 c1 c2 c3 dest) = encode (.ctrXfer c0 c1 c2 c3 0 1 0 dest) ∧
      exec (.ctrSend c0 c1 c2 c3 dest) s = exec (.ctrXfer c0 c1 c2 c3 0 1 0 dest) s)

/-- Reset leaves the state as 10_state.md R40's table says, whatever it was before, in a hang and in the middle of an
operation alike (70_reset_and_hazards.md R310), an operation it interrupts giving no response; then the block waits for
the first operation. The elements without a value answer no port. That the host's coming events name the moment of the
reset is the model's form of "at any time" (log 25). Rests on the spec decision D30 (92_eei_decisions.md). -/
def Obligations.ResetLeavesTheStateOfR40 : Prop :=
  ∀ (s : State) (e : Env) (rest : List HostEvent),
    (s.inbox = .reset e :: rest ∨ (s.hung = none ∧ ∃ o n, s.inbox = .cut o n e :: rest)) →
    ∃ t, step s = .next t ∧
      (∀ p, portValue t p =
        match p with
        | .tvalid | .svalid | .macv | .phase | .smallgeo | .idMismatch | .respMismatch => some 0
        | _ => none) ∧
      t.seq.phase = .raw ∧ t.log = [] ∧ t.response = none ∧ t.hung = none ∧ t.inbox = rest ∧
      t.inputs.gamecode.written = false ∧ t.inputs.timing.written = false ∧ t.inputs.seedidx.written = false ∧
      t.inputs.idword.written = false ∧ t.inputs.capresp.written = false ∧ t.resetIn = none ∧
      (rest = [] → step t = .next t)

/-- What reset does not touch (70_reset_and_hazards.md R311): the parameters. From then on the oracle is free: it answers
as the reset event says (its free values staying fresh). That host memory is kept (log 25) and that the registers the
block programmed in the devices keep their values (`t.dev = s.dev`, log 17; R311 calls their state unknown) are the
model's choices. A reset in the middle of an operation (R310) finds what was done so far and no more: the calls made
stay made, and of a CTR.XFER to an aligned destination that is cut after its two calls and `k` of its stores, exactly
the first `k` words are in memory (R215, R216; that the cut is counted in lasting effects is the model's form, log 25).
-/
def Obligations.ResetKeepsParametersAndOutside : Prop :=
  ∀ (s : State) (e : Env) (rest : List HostEvent),
    (s.inbox = .reset e :: rest →
      ∃ t, step s = .next t ∧ t.cfg = s.cfg ∧ t.mem = s.mem ∧ t.dev = s.dev ∧ t.trace = s.trace ∧
        t.env = { e with freeCtr := s.env.freeCtr }) ∧
    (∀ o n, s.hung = none → s.inbox = .cut o n e :: rest →
      ∃ t, step s = .next t ∧ t.cfg = s.cfg ∧ s.trace <+: t.trace ∧ ∃ ctr, t.env = { e with freeCtr := ctr }) ∧
    (∀ (r : Request) (k : Nat) (c0 c1 c2 c3 pagesize blocks dest : Word), s.hung = none →
      s.inbox = .cut (.request r) (k + 2) e :: rest → decodeRequest r = .ok (.ctrXfer c0 c1 c2 c3 pagesize blocks 1 dest) →
      s.cfg.pollBound = none → s.env.statusRest = ⟨false, true⟩ → dest.extractLsb' 0 2 = 0 →
      (pageClass pagesize).toNat * (minOneBlock blocks).toNat < 2 ^ 32 →
      k < transferPops s.env.status ((pageClass pagesize).toNat * (minOneBlock blocks).toNat / 4) →
      ∃ t, step s = .next t ∧ t.response = none ∧ t.dev = s.dev ∧
        t.trace = s.trace ++ [.ctrCmdWrite ⟨c0, c1, c2, c3⟩,
          .ctrStart (pageCodeOf s.cfg.pageCode (pageClass pagesize)) (minOneBlock blocks)] ∧
        ∀ a : Nat, Memory.read t.mem a =
          let j := (BitVec.ofNat 32 a - dest).toNat
          if a < 2 ^ 32 ∧ j < 4 * k then some ((s.env.fifoAt (j / 4)).extractLsb' (8 * (j % 4)) 8)
          else Memory.read s.mem a)

/-- A block that hangs takes no event but a reset (60_exceptions.md R281, 70_reset_and_hazards.md R310); that the
step then faults is the model's form of "never" (log 4). -/
def Obligations.HangEndsOnlyByReset : Prop :=
  ∀ (s : State) (w : Wait), s.hung = some w → (∀ e, s.inbox.head? ≠ some (.reset e)) →
    step s = .fault (.hang w)

/-- A read port answers the element's value, or E_UNINIT when it holds none, and nothing but the response record and
the taken event changes (R26, R41). So with the log output, which the host reads (60_exceptions.md R283; by what access
is the model's choice, log 27). Rests on the spec decisions D1, D3, D29, D35 (92_eei_decisions.md). -/
def Obligations.ReadPortsHaveNoSideEffect : Prop :=
  ∀ (s : State) (rest : List HostEvent), s.hung = none →
    (∀ p v, s.inbox = .readPort p :: rest → portValue s p = some v →
      step s = .next ((s.setInbox rest).setResponse (some (.port v)))) ∧
    (∀ p, s.inbox = .readPort p :: rest → portValue s p = none →
      step s = .next ((s.setInbox rest).setResponse (some (.fault (.uninit (portElement p)))))) ∧
    (s.inbox = .readLog :: rest → step s = .next ((s.setInbox rest).setResponse (some (.log s.log))))

/-- Between operations the host writes SA and AESIN, the collaborators the inputs, each alone (R20, R26, R36). A host that
drives the units itself calls the primitives (42_ntr_command.md R168, 46_unlock_sequences.md R253): EFRAME is
transmitted and its answer handed over, E_UNINIT when no frame has been built; a sector is read, its bytes handed over;
the seed and key registers are programmed. That these calls are events of the host is the model's choice (log 33), and so
is the 32-bit address of the sector (log 34). Rests on the spec decision D1 (92_eei_decisions.md). -/
def Obligations.HostWritesLand : Prop :=
  ∀ (s : State) (rest : List HostEvent), s.hung = none →
    (∀ i w, s.inbox = .writeSa i w :: rest →
      step s = .next ((s.setInbox rest).setArea (s.area.set i.val (.holding w) i.isLt))) ∧
    (∀ i w, s.inbox = .writeAesin i w :: rest →
      step s = .next ((s.setInbox rest).setAes { s.aes with aesin := s.aes.aesin.set i.val (.holding w) i.isLt })) ∧
    (∀ w, s.inbox = .writeGamecode w :: rest →
      step s = .next ((s.setInbox rest).setInputs { s.inputs with gamecode := .holding w })) ∧
    (∀ n, s.inbox = .writeTiming n :: rest →
      step s = .next ((s.setInbox rest).setInputs { s.inputs with timing := .holding n })) ∧
    (∀ n, s.inbox = .writeSeedidx n :: rest →
      step s = .next ((s.setInbox rest).setInputs { s.inputs with seedidx := .holding n })) ∧
    (∀ w, s.inbox = .writeIdword w :: rest →
      step s = .next ((s.setInbox rest).setInputs { s.inputs with idword := .holding w })) ∧
    (∀ w, s.inbox = .writeCapresp w :: rest →
      step s = .next ((s.setInbox rest).setInputs { s.inputs with capresp := .holding w })) ∧
    (∀ n, s.inbox = .call (.sendEframe n) :: rest → s.command.eframe.written = false →
      step s = .next ((s.setInbox rest).uninitialised (.port .eframe))) ∧
    (∀ n, s.inbox = .call (.sendEframe n) :: rest → s.command.eframe.written = true → s.promptReplies →
      step s = .next ((((s.setInbox rest).setTrace (s.trace ++ [.ntrSend s.command.eframe.val n])).setEnv
        s.env.afterReply).setResponse (some (.bytes (s.env.replyAt 0 n))))) ∧
    (∀ a n, s.inbox = .call (.readSector a n) :: rest → s.promptReplies →
      step s = .next ((((s.setInbox rest).setTrace (s.trace ++ [.ntrSend (readFrame s.cfg a) n])).setEnv
        s.env.afterReply).setResponse (some (.bytes (s.env.replyAt 0 n))))) ∧
    (∀ x y, s.inbox = .call (.seedWrite x y) :: rest → s.resetIn = none →
      step s = .next ((((s.setInbox rest).setTrace (s.trace ++ [.seedWrite x y])).setDev
        { s.dev with seedX := x, seedY := y, key2On := true }).setResponse (some .done))) ∧
    (∀ v, s.inbox = .call (.ctrSecKey v) :: rest → s.promptAccepts →
      step s = .next (((((s.setInbox rest).setTrace (s.trace ++ [.ctrSecKey v])).setEnv s.env.afterAccept).setDev
        { s.dev with secKey := v }).setResponse (some .done))) ∧
    (∀ q, s.inbox = .call (.ctrSecSeed q) :: rest → s.promptAccepts →
      step s = .next (((((s.setInbox rest).setTrace (s.trace ++ [.ctrSecSeed q])).setEnv s.env.afterAccept).setDev
        { s.dev with secSeed := q }).setResponse (some .done))) ∧
    (∀ n, s.inbox = .call (.delay n) :: rest → s.resetIn = none →
      step s = .next (((s.setInbox rest).setTrace (s.trace ++ [.delay n])).setResponse (some .done)))

/-- The sub-table function F of R120, on every table and word. Rests on the spec decisions D5, D6
(92_eei_decisions.md). -/
def Obligations.SubTableIsF : Prop := ∀ (t : Table) (z : Word), subTable t z = specF t z

/-- K1.ENC (R122): sixteen rounds with slots 0 to 15, the final XOR crossed with slots 0x10 and 0x11, the result in BLK
and the response record and nothing else changed; E_UNINIT when TVALID = 0. The round is R121 with F of R120. Rests on
the spec decisions D4, D5, D6, D35 (92_eei_decisions.md): D5 assigns the two final-XOR slots. -/
def Obligations.EncRunsTheForwardPass : Prop :=
  ∀ (w0 w1 : Word) (s : State),
    (s.cipher.tvalid = true →
      ∃ y x, PassWords s.cipher.sched.t (fun i => i) w0 w1 y x ∧
        exec (.k1Enc w0 w1) s =
          .next (s.withBlock ⟨x 16 ^^^ slot s.cipher.sched.t 0x10, y 16 ^^^ slot s.cipher.sched.t 0x11⟩)) ∧
    (s.cipher.tvalid = false → exec (.k1Enc w0 w1) s = .next (s.uninitialised .table))

/-- K1.DEC (R123): sixteen rounds with slots 0x11 down to 2, the final XOR with slots 1 and 0. The round is R121 with F of
R120. Rests on the spec decisions D4, D5, D6, D35 (92_eei_decisions.md): D5 assigns the two final-XOR slots. -/
def Obligations.DecRunsTheReversePass : Prop :=
  ∀ (w0 w1 : Word) (s : State),
    (s.cipher.tvalid = true →
      ∃ y x, PassWords s.cipher.sched.t (fun i => 0x11 - i) w0 w1 y x ∧
        exec (.k1Dec w0 w1) s =
          .next (s.withBlock ⟨x 16 ^^^ slot s.cipher.sched.t 1, y 16 ^^^ slot s.cipher.sched.t 0⟩)) ∧
    (s.cipher.tvalid = false → exec (.k1Dec w0 w1) s = .next (s.uninitialised .table))

/-- The inverse law of R124, for any contents of T. -/
def Obligations.PassesAreMutuallyInverse : Prop :=
  ∀ (t : Table) (b : Block), dec t (enc t b) = b ∧ enc t (dec t b) = b

/-- With every slot zero each pass only swaps (R122 corner case d, R123). -/
def Obligations.ZeroTableSwapsTheWords : Prop :=
  ∀ (t : Table) (w0 w1 : Word), (∀ i, i < 0x412 → slot t i = 0) →
    enc t ⟨w0, w1⟩ = ⟨w1, w0⟩ ∧ dec t ⟨w0, w1⟩ = ⟨w1, w0⟩

/-- DeriveKeyCode (R142): the code, half of it, twice it modulo 2^32. Rests on the spec decision D7
(92_eei_decisions.md). -/
def Obligations.KeyCodeHalvesAndDoubles : Prop :=
  ∀ code : Word, (deriveKeyCode code).k0 = code ∧ (deriveKeyCode code).k1.toNat = code.toNat / 2 ∧
    (deriveKeyCode code).k2.toNat = code.toNat * 2 % 2 ^ 32

/-- PreCipher (R143): the pair (K[1], K[2]), then the pair (K[0], K[1]) with the K[1] just written. Rests on the spec
decision D8 (92_eei_decisions.md). -/
def Obligations.PreCipherChainsTwoPasses : Prop :=
  ∀ (t : Table) (k k' : KeyCode), preCipher t k = k' ↔
    ∃ w, enc t ⟨k.k1, k.k2⟩ = ⟨w, k'.k2⟩ ∧ enc t ⟨k.k0, w⟩ = ⟨k'.k0, k'.k1⟩

/-- XorStep (R145): the slots below KS_XOR_SLOTS take the byte-swapped key-code word of their parity. Rests on the
spec decision D9 (92_eei_decisions.md). -/
def Obligations.XorStepAlternatesByParity : Prop :=
  ∀ (slots : Nat) (k : KeyCode) (t : Table) (i : Nat), i < 0x412 →
    slot (xorStep slots k t) i =
      if i < slots then
        slot t i ^^^
          (let w := if i % 2 = 0 then k.k0 else k.k1
           w.extractLsb' 0 8 ++ w.extractLsb' 8 8 ++ w.extractLsb' 16 8 ++ w.extractLsb' 24 8)
      else slot t i

/-- Rebuild (R146, 20_memory.md R74): 0x209 iterations, each ciphering the previous output under the table as it is at
that moment; the right word goes to the even slot, the left word to the odd one. Rests on the spec decision D10
(92_eei_decisions.md). -/
def Obligations.RebuildCiphersUnderTheTableItRewrites : Prop :=
  ∀ t : Table, ∃ (tab : Nat → Table) (scr : Nat → Block),
    tab 0 = t ∧ scr 0 = ⟨0, 0⟩ ∧
    (∀ n < 0x209, scr (n + 1) = enc (tab n) (scr n) ∧
      ∀ j, j < 0x412 → slot (tab (n + 1)) j =
        if j = 2 * n then (scr (n + 1)).right
        else if j = 2 * n + 1 then (scr (n + 1)).left
        else slot (tab n) j) ∧
    rebuild t = tab 0x209 ∧
    (∀ n < 0x209, slot (rebuild t) (2 * n) = (scr (n + 1)).right ∧
      slot (rebuild t) (2 * n + 1) = (scr (n + 1)).left)

/-- KS.INIT (R140) and its two pseudo-operations (R103): T and K are the result of two or three passes (R148) from
BASE[gen] and the derived key code (R142), each pass being pre-cipher, XOR step with the key code it left, rebuild
(R144), the scaling after the pass that the parameter names (R147); TVALID is 1, nothing else changes; refused when
BASE[gen] is not supplied. Rests on the spec decisions D7, D11, D12, D37 (92_eei_decisions.md). -/
def Obligations.KsInitDerivesTheSchedule : Prop :=
  ∀ (code : Word) (stage gen : BitVec 1) (s : State),
    (∀ base, (if gen = 0 then s.cfg.base0 else s.cfg.base1) = some base →
      exec (.ksInit code stage gen) s = .next (s.afterSchedule base code stage) ∧
      exec (.ksLight code gen) s = .next (s.afterSchedule base code 0) ∧
      exec (.ksFull code gen) s = .next (s.afterSchedule base code 1)) ∧
    ((if gen = 0 then s.cfg.base0 else s.cfg.base1) = none →
      exec (.ksInit code stage gen) s = .refused .baseNotSupplied)

/-- With the scaling after pass 1 or 2 the FULL result is the LIGHT result after one more schedule pass (R149). Rests
on the spec decisions D11, D12 (92_eei_decisions.md). -/
def Obligations.FullIsLightAndOnePass : Prop :=
  ∀ (cfg : Config) (base : Table) (code : Word), cfg.ksScaleAfterPass = 1 ∨ cfg.ksScaleAfterPass = 2 →
    ksSchedule cfg base code 1 = applyPass cfg.ksXorSlots (ksSchedule cfg base code 0)

/-- SES.SEED (R160): six draws, one per field in R28's order, low bits kept; only SES, SVALID, the entropy stream and
the response record change. Rests on the spec decision D14 (92_eei_decisions.md). -/
def Obligations.SesSeedDrawsSixFields : Prop :=
  ∀ s : State,
    exec .sesSeed s = .next (((s.setEnv (s.env.afterDraws 6)).setCommand
      { s.command with ses := s.env.session, svalid := true }).setResponse (some .done)) ∧
    (∀ d0 d1 d2 d3 d4 d5 ds, s.env.draws = d0 :: d1 :: d2 :: d3 :: d4 :: d5 :: ds →
      s.env.session = ⟨d0.extractLsb' 0 12, d1.extractLsb' 0 12, d2.extractLsb' 0 20, d3.extractLsb' 0 16,
        d4.extractLsb' 0 12, d5.extractLsb' 0 12⟩ ∧ (s.env.afterDraws 6).draws = ds)

/-- CMD.ACTKEY1 (R161, R95): the frame is not ciphered, needs no table and leaves the counter; E_UNINIT when SVALID =
0. Rests on the spec decision D16 (92_eei_decisions.md). -/
def Obligations.ActKey1BuildsThePlainFrame : Prop :=
  ∀ (gen : BitVec 1) (s : State),
    (s.command.svalid = true → exec (.cmdActkey1 gen) s = .next (s.afterActKey1 gen)) ∧
    (s.command.svalid = false → exec (.cmdActkey1 gen) s = .next (s.uninitialised .session))

/-- CMD.BUILD (R162): select, pack, seal, then count; E_UNINIT when SVALID or TVALID is 0, before any write. That the
session is the element named when neither holds a value is DEDUCED (log 24): R162 gives no order. Rests on the spec
decisions D14, D15, D17, D18 (92_eei_decisions.md). -/
def Obligations.CmdBuildPacksSealsAndCounts : Prop :=
  ∀ (op : BitVec 8) (blk : BitVec 16) (s : State),
    (s.canBuild → exec (.cmdBuild op blk) s = .next (s.afterBuild op blk)) ∧
    (s.command.svalid = false → exec (.cmdBuild op blk) s = .next (s.uninitialised .session)) ∧
    (s.command.svalid = true → s.cipher.tvalid = false →
      exec (.cmdBuild op blk) s = .next (s.uninitialised .table))

/-- The bit positions of PFRAME (R94): opcode ORed with b[15:12], b[11:0], the two parameters, the counter. Rests on
the spec decision D15 (92_eei_decisions.md). -/
def Obligations.FrameFieldsStandAtTheirBits : Prop :=
  ∀ (op : BitVec 8) (b : BitVec 16) (p q : BitVec 12) (c : BitVec 20),
    (pack op b p q c).extractLsb' 56 8 = (op ||| (b.extractLsb' 12 4).zeroExtend 8) ∧
    (pack op b p q c).extractLsb' 44 12 = b.extractLsb' 0 12 ∧
    (pack op b p q c).extractLsb' 32 12 = p ∧
    (pack op b p q c).extractLsb' 20 12 = q ∧
    (pack op b p q c).extractLsb' 0 20 = c

/-- The collision R96 names: the low nibble of the opcode and b[15:12] share their bits. Rests on the spec decision
D15 (92_eei_decisions.md). -/
def Obligations.OpcodeNibbleCollidesWithBlock : Prop :=
  ∀ (b : BitVec 16) (p q : BitVec 12) (c : BitVec 20), b.extractLsb' 12 4 = 0 →
    pack 0x2F b p q c = pack 0x20 (b ||| 0xF000) p q c

/-- The four CMD pseudo-operations run as the builds they stand for, with the values of the opcode parameters (R103,
R162). Rests on the spec decisions D19, D37 (92_eei_decisions.md). -/
def Obligations.CommandPseudoOperationsBuild : Prop :=
  ∀ (blk : BitVec 16) (s : State), s.canBuild →
    exec .cmdActsec s = .next (s.afterBuild s.cfg.opActivateSec 0) ∧
    exec .cmdChipid s = .next (s.afterBuild s.cfg.opSecureChipid 0) ∧
    exec (.cmdSecread blk) s = .next (s.afterBuild s.cfg.opSecureRead blk) ∧
    exec .cmdDatamode s = .next (s.afterBuild s.cfg.opDataMode 0)

/-- A built frame is opened by the reverse pass under the same table: the words of EFRAME go back to those of PFRAME
(R124, R166). -/
def Obligations.BuiltFrameOpensToItsPlaintext : Prop :=
  ∀ (op : BitVec 8) (blk : BitVec 16) (s t : State), s.canBuild → exec (.cmdBuild op blk) s = .next t →
    t.command.pframe.written = true ∧ t.command.eframe.written = true ∧
    dec s.cipher.sched.t ⟨frameLow t.command.eframe.val, frameHigh t.command.eframe.val⟩ =
      ⟨frameLow t.command.pframe.val, frameHigh t.command.pframe.val⟩

/-- The session counter (R167): after builds of `ops`, SES.CNT has advanced by the number of them that are
OP_SECURE_READ (of all of them under CNT_INC_ALL), modulo 2^20. Rests on the spec decision D18 (92_eei_decisions.md).
-/
def Obligations.CounterCountsSecureReads : Prop :=
  ∀ (ops : List (BitVec 8 × BitVec 16)) (s : State), s.canBuild →
    ∃ t, execAll (ops.map fun o => .cmdBuild o.1 o.2) s = some t ∧
      t.command.ses.cnt = s.command.ses.cnt +
        BitVec.ofNat 20 (if s.cfg.cntIncAll = true then ops.length
          else (ops.filter fun o => o.1 = s.cfg.opSecureRead).length) ∧
      t.cipher = s.cipher ∧ t.command.svalid = true ∧ { t.command.ses with cnt := s.command.ses.cnt } = s.command.ses

/-- The encrypted NTRFRAME rows run as the CMD.BUILD that packs them (R97): under an opcode of the row's nibble and a
session that gives the row's fields. That such a frame is an event of the host is the model's choice (log 14). Rests
on the spec decision D15 (92_eei_decisions.md). -/
def Obligations.EncryptedFrameRowsBuild : Prop :=
  ∀ (b : BitVec 16) (p q : BitVec 12) (c : BitVec 20) (s : State), s.canBuild →
    (s.cfg.opActivateSec = 0x40 → carries s 0x40 0 b p q c →
      exec (.frameActivateSec b p q c) s = .next (s.afterBuild 0x40 0)) ∧
    (s.cfg.opSecureChipid = 0x10 → carries s 0x10 0 b p q c →
      exec (.frameSecureChipid b p q c) s = .next (s.afterBuild 0x10 0)) ∧
    (s.cfg.opSecureRead = 0x20 → carries s 0x20 b b p q c →
      exec (.frameSecureRead b p q c) s = .next (s.afterBuild 0x20 b)) ∧
    (s.cfg.opDataMode = 0xA0 → carries s 0xA0 0 b p q c →
      exec (.frameDataMode b p q c) s = .next (s.afterBuild 0xA0 0))

/-- The unencrypted activate-key1 rows run as the CMD.ACTKEY1 that builds them (R95, R161; log 14). Rests on the spec
decision D16 (92_eei_decisions.md). -/
def Obligations.ActivateKey1FrameRowsBuild : Prop :=
  ∀ (p q : BitVec 12) (c : BitVec 20) (e : BitVec 8) (s : State), s.command.svalid = true →
    p = s.command.ses.p0 → q = s.command.ses.p1 → c = s.command.ses.cnt → e = s.env.nextDraw.extractLsb' 0 8 →
    (s.cfg.opActivateKey1G0 = 0x3C → exec (.frameActivateKey1G0 p q c e) s = .next (s.afterActKey1 0)) ∧
    (s.cfg.opActivateKey1G1 = 0x3D → exec (.frameActivateKey1G1 p q c e) s = .next (s.afterActKey1 1))

/-- MODEL'S CHOICE (log 14): each of the seven frame rows that the session and the parameters do not give is refused, and
a build row whose session or table holds no value is E_UNINIT, as the build itself. -/
def Obligations.ForeignFrameRowsRefused : Prop :=
  ∀ (a : Word) (b : BitVec 16) (p q : BitVec 12) (c : BitVec 20) (e : BitVec 8) (s : State),
    (s.canBuild →
      (specFrame s s.cfg.opActivateSec 0 ≠ 0x4#4 ++ b ++ p ++ q ++ c →
        exec (.frameActivateSec b p q c) s = .refused .frameNotBuilt) ∧
      (specFrame s s.cfg.opSecureChipid 0 ≠ 0x1#4 ++ b ++ p ++ q ++ c →
        exec (.frameSecureChipid b p q c) s = .refused .frameNotBuilt) ∧
      (specFrame s s.cfg.opSecureRead b ≠ 0x2#4 ++ b ++ p ++ q ++ c →
        exec (.frameSecureRead b p q c) s = .refused .frameNotBuilt) ∧
      (specFrame s s.cfg.opDataMode 0 ≠ 0xA#4 ++ b ++ p ++ q ++ c →
        exec (.frameDataMode b p q c) s = .refused .frameNotBuilt)) ∧
    (s.command.svalid = true →
      (specActKey1 s 0 ≠ 0x3C#8 ++ p ++ q ++ 0#4 ++ c ++ e →
        exec (.frameActivateKey1G0 p q c e) s = .refused .frameNotBuilt) ∧
      (specActKey1 s 1 ≠ 0x3D#8 ++ p ++ q ++ 0#4 ++ c ++ e →
        exec (.frameActivateKey1G1 p q c e) s = .refused .frameNotBuilt)) ∧
    (readFrame s.cfg a ≠ 0xB7#8 ++ a ++ 0#24 → exec (.frameDataRead a) s = .refused .frameNotBuilt) ∧
    (∀ i ∈ [Instr.frameActivateSec b p q c, .frameSecureChipid b p q c, .frameSecureRead b p q c,
        .frameDataMode b p q c],
      (s.command.svalid = false → exec i s = .next (s.uninitialised .session)) ∧
      (s.command.svalid = true → s.cipher.tvalid = false → exec i s = .next (s.uninitialised .table))) ∧
    (∀ i ∈ [Instr.frameActivateKey1G0 p q c e, .frameActivateKey1G1 p q c e],
      s.command.svalid = false → exec i s = .next (s.uninitialised .session))

/-- FRAME.DATA_READ under ReadFrame's default (R250, R251): the unciphered frame is sent and its bytes come back. At
VALIDATION_OFFSET they go to the log unexamined; at a granule of the protected region its words go to SA, least
significant byte first. How a host drives the read by hand is the model's choice (log 15), and so are
cartridge addresses of 32 bits (log 34). Rests on the spec decision
D34 (92_eei_decisions.md). -/
def Obligations.DataReadFrameReadsSectors : Prop :=
  ∀ (a : Word) (s : State), s.cfg.readFrameFn = .gkDefault → s.cfg.opDataRead = 0xB7 → s.cfg.pollBound = none →
    s.resetIn = none → s.env.nextReply.polls ≠ none →
    ∃ t, exec (.frameDataRead a) s = .next t ∧
      let g := if s.seq.smallgeo = true then 0x1000 else 0x200
      let n := if a = s.cfg.validationOffset then s.cfg.validationLen else g
      let off := (a - s.cfg.saOffset).toNat
      let v := replyBytes s.env.nextReply.bytes s.env.freeCtr n
      t.response = some (.bytes v) ∧ v.length = n ∧
      t.trace = s.trace ++ [.ntrSend (0xB7#8 ++ a ++ 0#24) n] ∧
      t.log = (if a = s.cfg.validationOffset then s.log ++ [.validation v] else s.log) ∧
      (∀ i < 0x1000, areaWord t.area i =
        if a ≠ s.cfg.validationOffset ∧ off < 0x4000 ∧ off % g = 0 ∧ off / 4 ≤ i ∧ i < off / 4 + g / 4 then
          .holding (byteWord v (i - off / 4))
        else areaWord s.area i) ∧
      t.cfg = s.cfg ∧ t.cipher = s.cipher ∧ t.command = s.command ∧ t.aes = s.aes ∧ t.transport = s.transport ∧
      t.seq = s.seq ∧ t.inputs = s.inputs ∧ t.mem = s.mem ∧ t.hung = s.hung ∧ t.dev = s.dev ∧ t.inbox = s.inbox

/-- SA.DECRYPT (R180 to R183): one block under the LIGHT table, SA_FULL_COUNT blocks under the FULL table, each word
elsewhere unchanged, the FULL schedule left behind, nothing else written. Rests on the spec decisions D4, D21
(92_eei_decisions.md). -/
def Obligations.SaDecryptRunsBothStages : Prop :=
  ∀ (code : Word) (gen : BitVec 1) (base : Table) (plain : Nat → Block) (s : State),
    (if gen = 0 then s.cfg.base0 else s.cfg.base1) = some base →
    s.cfg.saLightBlock < 0x800 → s.cfg.saFullStart + s.cfg.saFullCount ≤ 0x800 →
    (∀ k, k = s.cfg.saLightBlock ∨ (s.cfg.saFullStart ≤ k ∧ k < s.cfg.saFullStart + s.cfg.saFullCount) →
      HoldsBlock s.area k (plain k)) →
    ∃ area, exec (.saDecrypt code gen) s = .next ((s.afterSchedule base code 1).setArea area) ∧
      (∀ k, s.cfg.saFullStart ≤ k → k < s.cfg.saFullStart + s.cfg.saFullCount →
        HoldsBlock area k (dec (specSchedule s.cfg base code 1).t
          (if k = s.cfg.saLightBlock then dec (specSchedule s.cfg base code 0).t (plain k) else plain k))) ∧
      (¬ (s.cfg.saFullStart ≤ s.cfg.saLightBlock ∧ s.cfg.saLightBlock < s.cfg.saFullStart + s.cfg.saFullCount) →
        HoldsBlock area s.cfg.saLightBlock (dec (specSchedule s.cfg base code 0).t (plain s.cfg.saLightBlock))) ∧
      (∀ i < 0x1000, i / 2 ≠ s.cfg.saLightBlock →
        ¬ (s.cfg.saFullStart ≤ i / 2 ∧ i / 2 < s.cfg.saFullStart + s.cfg.saFullCount) →
        areaWord area i = areaWord s.area i)

/-- SA.DECRYPT recovers an area encrypted for its stages (R124, R181, R182): block SA_LIGHT_BLOCK under the LIGHT
table, the full range under the FULL table, the two apart as by default. Rests on the spec decision D21
(92_eei_decisions.md). -/
def Obligations.SaDecryptRecoversTheArea : Prop :=
  ∀ (code : Word) (gen : BitVec 1) (base : Table) (plain : Nat → Block) (s : State),
    (if gen = 0 then s.cfg.base0 else s.cfg.base1) = some base →
    s.cfg.saLightBlock < s.cfg.saFullStart → s.cfg.saFullStart + s.cfg.saFullCount ≤ 0x800 →
    s.cfg.saLightBlock < 0x800 →
    HoldsBlock s.area s.cfg.saLightBlock (enc (specSchedule s.cfg base code 0).t (plain s.cfg.saLightBlock)) →
    (∀ k, s.cfg.saFullStart ≤ k → k < s.cfg.saFullStart + s.cfg.saFullCount →
      HoldsBlock s.area k (enc (specSchedule s.cfg base code 1).t (plain k))) →
    ∃ t, exec (.saDecrypt code gen) s = .next t ∧
      HoldsBlock t.area s.cfg.saLightBlock (plain s.cfg.saLightBlock) ∧
      ∀ k, s.cfg.saFullStart ≤ k → k < s.cfg.saFullStart + s.cfg.saFullCount → HoldsBlock t.area k (plain k)

/-- Where SA.DECRYPT stops. By refusal: when the light block (log 22) or the full range (R180 corner case c) leaves the
buffer, whatever else holds (the order of the two refusals is the model's choice, log 22), and when BASE[gen] is not
supplied. With E_UNINIT: at the first unwritten word of the light block, with the LIGHT schedule written, or at the
first unwritten word of the full range, with the FULL schedule written, the light block and the blocks before that word
decrypted, and every other word as before (R180, R287, R295). That the even word of a block is named when both are
unwritten is DEDUCED (log 24). -/
def Obligations.SaDecryptStopsOnUnwrittenWords : Prop :=
  ∀ (code : Word) (gen : BitVec 1) (s : State),
    (0x800 ≤ s.cfg.saLightBlock ∨ 0x800 < s.cfg.saFullStart + s.cfg.saFullCount →
      exec (.saDecrypt code gen) s = .refused .areaRange) ∧
    (s.cfg.saLightBlock < 0x800 → s.cfg.saFullStart + s.cfg.saFullCount ≤ 0x800 →
      ((if gen = 0 then s.cfg.base0 else s.cfg.base1) = none →
        exec (.saDecrypt code gen) s = .refused .baseNotSupplied) ∧
      (∀ base, (if gen = 0 then s.cfg.base0 else s.cfg.base1) = some base →
        (∀ (j : Nat) (h : 2 * s.cfg.saLightBlock + j < 0x1000), j < 2 →
          (j = 1 → (areaWord s.area (2 * s.cfg.saLightBlock)).written = true) →
          (areaWord s.area (2 * s.cfg.saLightBlock + j)).written = false →
          exec (.saDecrypt code gen) s = .next ((s.afterSchedule base code 0).setResponse
            (some (.fault (.uninit (.port (.sa ⟨2 * s.cfg.saLightBlock + j, h⟩))))))) ∧
        (∀ (plain : Nat → Block) (k j : Nat) (h : 2 * k + j < 0x1000), j < 2 → s.cfg.saFullStart ≤ k →
          k < s.cfg.saFullStart + s.cfg.saFullCount →
          (∀ k', k' = s.cfg.saLightBlock ∨ (s.cfg.saFullStart ≤ k' ∧ k' < k) → HoldsBlock s.area k' (plain k')) →
          (j = 1 → (areaWord s.area (2 * k)).written = true) → (areaWord s.area (2 * k + j)).written = false →
          ∃ area, exec (.saDecrypt code gen) s = .next (((s.afterSchedule base code 1).setArea area).setResponse
              (some (.fault (.uninit (.port (.sa ⟨2 * k + j, h⟩)))))) ∧
            (∀ k', s.cfg.saFullStart ≤ k' → k' < k → HoldsBlock area k' (dec (specSchedule s.cfg base code 1).t
              (if k' = s.cfg.saLightBlock then dec (specSchedule s.cfg base code 0).t (plain k') else plain k'))) ∧
            (¬ (s.cfg.saFullStart ≤ s.cfg.saLightBlock ∧ s.cfg.saLightBlock < k) →
              HoldsBlock area s.cfg.saLightBlock
                (dec (specSchedule s.cfg base code 0).t (plain s.cfg.saLightBlock))) ∧
            (∀ i < 0x1000, i / 2 ≠ s.cfg.saLightBlock → ¬ (s.cfg.saFullStart ≤ i / 2 ∧ i / 2 < k) →
              areaWord area i = areaWord s.area i))))

/-- AES.SESSION (R190, R191, R192): one CCM decryption of AESIN, AESOUT and MACV written whether or not the MAC is
valid, a failed MAC logged and not fatal; AESIN and the rest unchanged. E_UNINIT, here and in CTR.UNLOCK, at the first
unwritten word of AESIN in the order the rules list them, a retail cartridge's key scrambler having been called once its
four words are read (R190, R41; that order is DEDUCED, log 24). The model's choice in it (log 32): the one completion
wait of the session, after every read and every call, so that one answered wait completes it and an unwritten word is
E_UNINIT whatever the engine would answer. Rests on the spec decision D22 (92_eei_decisions.md). -/
def Obligations.AesSessionDerivesTheKey : Prop :=
  ∀ (dev : BitVec 1) (s : State), s.resetIn = none →
    (s.sessionReady dev → s.cfg.pollBound = none → s.env.nextAccept ≠ none →
      exec (.aesSession dev) s =
        .next (((((s.setTrace (s.trace ++ sessionCalls s dev)).setEnv s.env.afterAccept).setAes
        { s.aes with aesout := .holding (specSession s dev).1, macv := (specSession s dev).2 }).setLog
        (s.log ++ macLog (specSession s dev).2)).setResponse
        (some (.session (specSession s dev).1 (specSession s dev).2)))) ∧
    (∀ before i after, sessionReads dev = before ++ i :: after → (∀ j ∈ before, s.aes.aesin[j].written = true) →
      s.aes.aesin[i].written = false →
      let w := fun j : Fin 15 => s.aes.aesin[j].val
      let scrambled := if dev = 1 ∨ i.val < 4 then [] else [EnvCall.keyScramble ⟨w 0, w 1, w 2, w 3⟩]
      let stopped := (s.setTrace (s.trace ++ scrambled)).uninitialised (.port (.aesin i))
      exec (.aesSession dev) s = .next stopped ∧ exec (.ctrUnlock dev) s = .next stopped)

/-- An AES engine that never completes (R196): AES.SESSION hangs without a response (R281), or, when POLL_BOUND is
finite, stops with E_POLLBOUND (R294); AESOUT and MACV are not written. The model's choices in it: that a hang is a next
state with `hung` set (log 4; R281 says it is the absence of a return), that a bound of zero stops the wait too (log 18),
and that the one wait comes after every call to the engine (log 32). Rests on the spec decision D28
(92_eei_decisions.md). -/
def Obligations.AesSessionHangsWithItsEngine : Prop :=
  ∀ (dev : BitVec 1) (s : State), s.resetIn = none → s.sessionReady dev → s.env.nextAccept = none →
    ∃ t, exec (.aesSession dev) s = .next t ∧ t.aes = s.aes ∧ t.log = s.log ∧
      t.trace = s.trace ++ sessionCalls s dev ∧
      (s.cfg.pollBound = none → t.hung = some .aesEngine ∧ t.response = none) ∧
      (s.cfg.pollBound ≠ none → t.hung = s.hung ∧ t.response = some (.fault (.pollBound .aesEngine)))

/-- PageClass and PAGECODE (R100): the seven legal sizes stay and have distinct codes, under the default map and under
every map the parameter can be (00_scope.md R11), and every other size becomes 4096. Rests on the spec decision D24
(92_eei_decisions.md). -/
def Obligations.PageSizesCollapseToLegalOnes : Prop :=
  ∀ page : Word,
    (legalPage page.toNat → pageClass page = page) ∧ (¬ legalPage page.toNat → pageClass page = 4096) ∧
    pageCodeOf Config.initial.pageCode (pageClass page) =
      (if page = 0 then 0 else if page = 4 then 1 else if page = 64 then 3 else if page = 512 then 4
        else if page = 1024 then 5 else if page = 2048 then 6 else 7) ∧
    (∀ (codes : PageCodes) (page' : Word), pageCodeOf codes (pageClass page) = pageCodeOf codes (pageClass page') →
      pageClass page = pageClass page')

/-- Clamping is silent (R284, R212): a zero block count does exactly what one does, an illegal page size exactly what
4096 does; no log entry, no flag; the only trace is XPAGE and XBLOCKS after the operation. -/
def Obligations.ClampingIsSilent : Prop :=
  ∀ (c0 c1 c2 c3 pagesize blocks dest : Word) (dv : BitVec 1) (s : State),
    exec (.ctrXfer c0 c1 c2 c3 pagesize 0 dv dest) s = exec (.ctrXfer c0 c1 c2 c3 pagesize 1 dv dest) s ∧
    (¬ legalPage pagesize.toNat →
      exec (.ctrXfer c0 c1 c2 c3 pagesize blocks dv dest) s = exec (.ctrXfer c0 c1 c2 c3 4096 blocks dv dest) s) ∧
    (∀ t, exec (.ctrXfer c0 c1 c2 c3 pagesize blocks dv dest) s = .next t →
      t.log = s.log ∧ t.seq = s.seq ∧ t.aes = s.aes ∧
      t.transport.xpage = .holding (pageClass pagesize) ∧ (legalPage pagesize.toNat → pageClass pagesize = pagesize) ∧
      (¬ legalPage pagesize.toNat → pageClass pagesize = 4096) ∧
      t.transport.xblocks = .holding (if blocks = 0 then 1 else blocks))

/-- The expected length is XPAGE x XBLOCKS, computed as a natural number: a request whose length does not fit 32 bits is
refused, and otherwise XLEN is that number. With XPAGE at most 4096 it fits whenever XBLOCKS is below 2^20 (R213, R105).
-/
def Obligations.OverlongTransfersRefused : Prop :=
  ∀ (c0 c1 c2 c3 pagesize blocks dest : Word) (dv : BitVec 1) (s : State),
    let length := (pageClass pagesize).toNat * (if blocks = 0 then 1 else blocks.toNat)
    (2 ^ 32 ≤ length → exec (.ctrXfer c0 c1 c2 c3 pagesize blocks dv dest) s = .refused .lengthOverflow) ∧
    (∀ t, exec (.ctrXfer c0 c1 c2 c3 pagesize blocks dv dest) s = .next t →
      t.transport.xlen.written = true ∧ t.transport.xlen.val.toNat = length ∧
      t.transport.xlen.val.toNat = t.transport.xpage.val.toNat * t.transport.xblocks.val.toNat) ∧
    (pageClass pagesize).toNat ≤ 4096 ∧ (blocks.toNat < 2 ^ 20 → length < 2 ^ 32)

/-- Store (R216, R67, R62): at an aligned and at an unaligned destination alike, the four bytes at dest + XCNT modulo
2^32 are the word's, least significant first, and every other byte is as before. Rests on the spec decision D26
(92_eei_decisions.md). -/
def Obligations.StoreLeavesTheSameFourBytes : Prop :=
  ∀ (m : Memory) (dest cnt w : Word) (a : Nat), cnt.toNat % 4 = 0 →
    Memory.read (storeAt m dest cnt w) a =
      if a = (dest + cnt).toNat then some (w.extractLsb' 0 8)
      else if a = (dest + cnt + 1).toNat then some (w.extractLsb' 8 8)
      else if a = (dest + cnt + 2).toNat then some (w.extractLsb' 16 8)
      else if a = (dest + cnt + 3).toNat then some (w.extractLsb' 24 8)
      else Memory.read m a

/-- CTR.XFER (R210 to R218): with a controller that ends ready and not busy and without a bound, the request
completes. The transfer registers are the operands', XCNT is four times the words the poll loop pops, never above
XLEN; the words go to memory in order at ascending addresses modulo 2^32 (dv = 1) or nowhere (dv = 0); the epilogue
runs exactly when the loop ended short; nothing else changes. Rests on the spec decisions D24, D25, D26
(92_eei_decisions.md). -/
def Obligations.CtrXferDeliversItsWords : Prop :=
  ∀ (c0 c1 c2 c3 pagesize blocks dest : Word) (dv : BitVec 1) (s : State), s.promptStatus →
    (pageClass pagesize).toNat * (minOneBlock blocks).toNat < 2 ^ 32 →
    ∃ t left, exec (.ctrXfer c0 c1 c2 c3 pagesize blocks dv dest) s = .next t ∧
      let len := (pageClass pagesize).toNat * (minOneBlock blocks).toNat
      let n := transferPops s.env.status (len / 4)
      t.transport = ⟨.holding ⟨c0, c1, c2, c3⟩, .holding (pageClass pagesize),
        .holding (pageCodeOf s.cfg.pageCode (pageClass pagesize)), .holding (minOneBlock blocks),
        .holding (BitVec.ofNat 32 len), .holding (BitVec.ofNat 32 (4 * n))⟩ ∧
      4 * n ≤ len ∧ t.response = some (.count (BitVec.ofNat 32 (4 * n))) ∧
      t.trace = s.trace ++ transferCalls s.cfg ⟨c0, c1, c2, c3⟩ t.transport ∧
      (dv = 0 → t.mem = s.mem) ∧
      (dv = 1 → ∀ a : Nat, Memory.read t.mem a =
        let j := (BitVec.ofNat 32 a - dest).toNat
        if a < 2 ^ 32 ∧ j < 4 * n then some ((s.env.fifoAt (j / 4)).extractLsb' (8 * (j % 4)) 8)
        else Memory.read s.mem a) ∧
      t.env = (s.env.afterPops n).withStatus left ∧ left <:+ s.env.status ∧
      t.cfg = s.cfg ∧ t.cipher = s.cipher ∧ t.command = s.command ∧ t.area = s.area ∧ t.aes = s.aes ∧
      t.seq = s.seq ∧ t.inputs = s.inputs ∧ t.log = s.log ∧ t.hung = s.hung ∧ t.dev = s.dev ∧ t.inbox = s.inbox

/-- A transfer whose controller stays busy through enough ready samples is complete (R215): XCNT = XLEN. Rests on the
spec decision D25 (92_eei_decisions.md). -/
def Obligations.BusyControllerDeliversAll : Prop :=
  ∀ (c0 c1 c2 c3 pagesize blocks dest : Word) (dv : BitVec 1) (x : Sample) (xs : List Sample) (s : State),
    s.promptStatus → s.env.status = x :: xs → x.busy = true → (∀ y ∈ xs, y.busy = true) →
    (pageClass pagesize).toNat * (minOneBlock blocks).toNat < 2 ^ 32 →
    (pageClass pagesize).toNat * (minOneBlock blocks).toNat ≤ 4 * (xs.filter fun y => y.ready).length →
    ∃ t, exec (.ctrXfer c0 c1 c2 c3 pagesize blocks dv dest) s = .next t ∧
      t.transport.xcnt = t.transport.xlen ∧
      t.transport.xlen.val.toNat = (pageClass pagesize).toNat * (minOneBlock blocks).toNat

/-- CTR.SEND (R103, R210 corner case a): no data, no epilogue, no store whatever `dest` says; it takes samples, oldest
first, and nothing else of the oracle. -/
def Obligations.CtrSendMovesNoData : Prop :=
  ∀ (c0 c1 c2 c3 dest : Word) (s : State), s.cfg.pollBound = none → s.resetIn = none →
    s.env.statusRest.busy = false →
    ∃ left, exec (.ctrSend c0 c1 c2 c3 dest) s = .next ((((s.setTransport
      ⟨.holding ⟨c0, c1, c2, c3⟩, .holding 0, .holding s.cfg.pageCode.code0, .holding 1, .holding 0, .holding 0⟩).setTrace
      (s.trace ++ [.ctrCmdWrite ⟨c0, c1, c2, c3⟩, .ctrStart s.cfg.pageCode.code0 1])).setEnv
      (s.env.withStatus left)).setResponse (some (.count 0))) ∧ left <:+ s.env.status

/-- The three waits of CTR.XFER (R219) toward a controller whose answer stays the same for ever: the poll loop when it
stays busy and not ready, the epilogue when it stays neither, the final wait when it stays busy, after a transfer of
length zero or after every word has been popped. The operation never completes (R281), or stops with E_POLLBOUND when
POLL_BOUND is finite (R294). What it did stands: CCMD, XPAGE, XCODE, XBLOCKS, XLEN, the current XCNT, the two calls, and
every byte already stored. The model's choices in it: that a hang is a next state with `hung` set (log 4) and that a
bound of zero stops a wait before its first sample (log 18; the first clause holds for it too). Rests on the spec
decision D28 (92_eei_decisions.md). -/
def Obligations.StalledTransferNeverCompletes : Prop :=
  ∀ (c0 c1 c2 c3 pagesize blocks dest : Word) (dv : BitVec 1) (s : State), s.resetIn = none → s.env.status = [] →
    (pageClass pagesize).toNat * (minOneBlock blocks).toNat < 2 ^ 32 →
    let stands := fun n w => ∃ t, exec (.ctrXfer c0 c1 c2 c3 pagesize blocks dv dest) s = .next t ∧
      StandsAt s t ⟨c0, c1, c2, c3⟩ pagesize blocks dest dv n w
    (s.env.statusRest = ⟨true, false⟩ → pageClass pagesize ≠ 0 → stands 0 .pollLoop) ∧
    (s.env.statusRest = ⟨false, false⟩ → pageClass pagesize ≠ 0 → s.cfg.pollBound ≠ some 0 → stands 0 .epilogue) ∧
    (s.env.statusRest.busy = true → pageClass pagesize = 0 → s.cfg.pollBound ≠ some 0 → stands 0 .finalWait) ∧
    (s.env.statusRest = ⟨true, true⟩ → s.cfg.pollBound = none →
      stands ((pageClass pagesize).toNat * (minOneBlock blocks).toNat / 4) .finalWait)

/-- XferWord (R267): the word its one-word transfer pops is the word it returns, and no byte of host memory changes. -/
def Obligations.XferWordReturnsThePoppedWord : Prop :=
  ∀ (c : Quad) (b b' : Bool) (xs : List Sample) (s : State), s.promptStatus →
    s.env.status = ⟨true, b⟩ :: ⟨b', true⟩ :: xs →
    ∃ t, xferWord c s = .ok s.env.nextWord t ∧ t.mem = s.mem ∧ t.env.fifo = s.env.afterPop.fifo ∧
      t.transport.xcnt = .holding 4 ∧ t.trace = s.trace ++ transferCalls s.cfg c t.transport

/-- NTR.UNLOCK (R240 to R251): with its inputs written and a cartridge whose answers come, the sequence runs from Raw
to Reading with exactly the documented calls in the documented order, and leaves the LIGHT schedule, the session and
the last frame. What the cartridge answers is what is kept: SECID is the word of the answer to the chip-id frame and is
compared with IDWORD (R248), the bytes of the answer to the validation read go to the log as they are (R250), and the
words of the granules' answers fill SA in order, least significant byte first (R251). That a cartridge address has 32 bits,
SA_OFFSET + off being modulo 2^32, is the model's choice (log 34). Rests on the spec decisions D27, D31, D32, D34
(92_eei_decisions.md). -/
def Obligations.NtrUnlockReachesReading : Prop :=
  ∀ (gen : BitVec 1) (base : Table) (s : State), s.seq.phase = .raw →
    (if gen = 0 then s.cfg.base0 else s.cfg.base1) = some base → s.promptReplies →
    s.inputs.gamecode.written = true → s.inputs.timing.written = true → s.inputs.seedidx.written = true →
    s.inputs.idword.written = true → s.cfg.cntIncAll = false →
    s.cfg.opActivateSec ≠ s.cfg.opSecureRead → s.cfg.opSecureChipid ≠ s.cfg.opSecureRead →
    s.cfg.opDataMode ≠ s.cfg.opSecureRead →
    ∃ t, exec (.ntrUnlock gen) s = .next t ∧
      let keyed := (s.setCipher { s.cipher with sched := specSchedule s.cfg base s.inputs.gamecode.val 0 }).setCommand
        { s.command with ses := s.env.session }
      let drawn := keyed.setEnv (s.env.afterDraws 6)
      let sealed := fun op => specSeal keyed.cipher.sched.t (specFrame keyed op 0)
      let large := s.inputs.idword.val.getLsbD 31
      let pause := if large then [EnvCall.delay (s.inputs.timing.val * 763)] else []
      let again := if large then [EnvCall.ntrSend (sealed s.cfg.opActivateSec) 0] else []
      let g := if large then 0x200 else 0x1000
      let answers := s.env.afterDraws 7
      let k := if large then 3 else 2
      let secid := byteWord (answers.replyAt k 4) 0
      t.trace = s.trace ++
        [.ntrSend (specActKey1 drawn gen) 0, .ntrSend (sealed s.cfg.opActivateSec) 0] ++ pause ++ again ++
        [.seedWrite (seedX s.cfg (seedByte s) s.env.session.q0 s.env.session.q1) (seedY s.cfg)] ++ pause ++
        [.ntrSend (sealed s.cfg.opSecureChipid) 4, .ntrSend (sealed s.cfg.opDataMode) 0,
          .ntrSend (readFrame s.cfg s.cfg.validationOffset) s.cfg.validationLen] ++
        granuleCalls s.cfg g (0x4000 / g) 0 ∧
      t.response = some .done ∧ t.seq.phase = .reading ∧ t.seq.smallgeo = (!large) ∧
      t.seq.secid = .holding secid ∧
      t.seq.idMismatch = (s.seq.idMismatch || secid != s.inputs.idword.val) ∧
      t.seq.resp0 = s.seq.resp0 ∧ t.seq.resp1 = s.seq.resp1 ∧ t.seq.respMismatch = s.seq.respMismatch ∧
      t.cipher = { s.cipher with sched := specSchedule s.cfg base s.inputs.gamecode.val 0, tvalid := true } ∧
      t.command = ⟨s.env.session, true, .holding (specFrame keyed s.cfg.opDataMode 0),
        .holding (sealed s.cfg.opDataMode)⟩ ∧
      t.log = s.log ++ (if secid = s.inputs.idword.val then [] else [.mismatchChipid s.inputs.idword.val secid]) ++
        [.validation (answers.replyAt (k + 2) s.cfg.validationLen)] ∧
      (∀ i < 0x1000, areaWord t.area i =
        .holding (byteWord (answers.replyAt (k + 3 + i / (g / 4)) g) (i % (g / 4)))) ∧
      t.dev = { s.dev with
        seedX := seedX s.cfg (seedByte s) s.env.session.q0 s.env.session.q1
        seedY := seedY s.cfg
        key2On := true } ∧
      t.env = answers.afterReplies (k + 3 + 0x4000 / g) ∧
      t.cfg = s.cfg ∧ t.aes = s.aes ∧ t.transport = s.transport ∧ t.inputs = s.inputs ∧ t.mem = s.mem ∧
      t.hung = s.hung ∧ t.inbox = s.inbox

/-- NTR.UNLOCK is refused unless PHASE is Raw, whatever else holds (R241, R286), and in Raw when BASE[gen] is not
supplied (R140; that this is decided before the first step is DEDUCED, log 22). Rests on the spec decision D31
(92_eei_decisions.md). -/
def Obligations.NtrUnlockRefusedPastRaw : Prop :=
  ∀ (gen : BitVec 1) (s : State),
    (s.seq.phase ≠ .raw → exec (.ntrUnlock gen) s = .refused .phaseOrder) ∧
    (s.seq.phase = .raw → (if gen = 0 then s.cfg.base0 else s.cfg.base1) = none →
      exec (.ntrUnlock gen) s = .refused .baseNotSupplied)

/-- Where NTR.UNLOCK stops before Reading. A cartridge that never answers the first command (R243, R252): the sequence
hangs (R281), or stops with E_POLLBOUND under a finite POLL_BOUND (R294), with what Setup and the activate-key1 step did
standing: SMALLGEO, the LIGHT schedule, the session, the activate-key1 frame built and sent, PHASE still Raw, all else
as before. An input that nothing has written is E_UNINIT at the step that reads it (R240, R41), with the calls before it
made and PHASE where the sequence had brought it: IDWORD, then HDR.GAMECODE in Setup, HDR.TIMING in the pause of large
geometry, HDR.SEEDIDX in StepSeed. The model's choices in it: that a hang is a next state with `hung` set from which a
step that finds no reset faults (the last clause of the first part, log 4), that a bound of zero stops the wait too
(log 18), and, where both are unwritten, IDWORD before HDR.GAMECODE (log 24). Rests on the spec decision D31
(92_eei_decisions.md). -/
def Obligations.NtrUnlockHangsOnASilentCartridge : Prop :=
  ∀ (gen : BitVec 1) (base : Table) (s : State), s.seq.phase = .raw → s.resetIn = none →
    (if gen = 0 then s.cfg.base0 else s.cfg.base1) = some base →
    let keyed := (s.setCipher { s.cipher with
      sched := specSchedule s.cfg base s.inputs.gamecode.val 0, tvalid := true }).setCommand
        { s.command with ses := s.env.session, svalid := true }
    let frame := specActKey1 (keyed.setEnv (s.env.afterDraws 6)) gen
    let large := s.inputs.idword.val.getLsbD 31
    let sealed := specSeal keyed.cipher.sched.t (specFrame keyed s.cfg.opActivateSec 0)
    (s.inputs.gamecode.written = true → s.inputs.idword.written = true →
      (s.env.afterDraws 7).nextReply.polls = none →
      ∃ t, exec (.ntrUnlock gen) s = .next t ∧ t.cipher = keyed.cipher ∧
        t.command = ⟨s.env.session, true, .holding frame, .holding frame⟩ ∧
        t.seq = { s.seq with smallgeo := !large } ∧ t.trace = s.trace ++ [.ntrSend frame 0] ∧
        t.env = (s.env.afterDraws 7).afterReply ∧
        (s.cfg.pollBound = none → t.hung = some .ntrSend ∧ t.response = none ∧
          ((∀ e, t.inbox.head? ≠ some (.reset e)) → step t = .fault (.hang .ntrSend))) ∧
        (s.cfg.pollBound ≠ none → t.hung = s.hung ∧ t.response = some (.fault (.pollBound .ntrSend))) ∧
        t.cfg = s.cfg ∧ t.area = s.area ∧ t.aes = s.aes ∧ t.transport = s.transport ∧ t.inputs = s.inputs ∧
        t.mem = s.mem ∧ t.log = s.log ∧ t.dev = s.dev ∧ t.inbox = s.inbox) ∧
    (s.inputs.idword.written = false → exec (.ntrUnlock gen) s = .next (s.uninitialised .idword)) ∧
    (s.inputs.idword.written = true → s.inputs.gamecode.written = false →
      exec (.ntrUnlock gen) s = .next ((s.setSeq { s.seq with smallgeo := !large }).uninitialised .gamecode)) ∧
    (s.inputs.idword.written = true → s.inputs.gamecode.written = true → s.promptReplies → large = true →
      s.inputs.timing.written = false →
      ∃ t, exec (.ntrUnlock gen) s = .next t ∧ t.response = some (.fault (.uninit .timing)) ∧
        t.seq.phase = .keyedRandom ∧ t.trace = s.trace ++ [.ntrSend frame 0, .ntrSend sealed 0] ∧ t.dev = s.dev) ∧
    (s.inputs.idword.written = true → s.inputs.gamecode.written = true → s.promptReplies →
      (large = true → s.inputs.timing.written = true) → s.inputs.seedidx.written = false →
      ∃ t, exec (.ntrUnlock gen) s = .next t ∧ t.response = some (.fault (.uninit .seedidx)) ∧
        t.seq.phase = .secureKeyed ∧ t.dev = s.dev ∧
        t.trace = s.trace ++ [.ntrSend frame 0, .ntrSend sealed 0] ++
          (if large then [.delay (s.inputs.timing.val * 763), .ntrSend sealed 0] else []))

/-- CTR.UNLOCK (R260 to R268): with its inputs written and the controller and engine answering, the handshake
completes. Seed programming happens twice, the second time with the byte-swapped challenge; both challenges are asked,
and each answer is the word its transfer pops (a free value when it ends short, R267, log 21); the first is compared
with IDWORD, the second with CAPRESP; the confirmation is sent exactly on a match, else ST.RESPMISMATCH is set and one
entry logged; five resends follow in either case, each with its Delay(RETRY_DELAY) (R266), and RESP[0] ends as the answer
to the last of them (R260 corner case b). Every call is stated in its order, and what the operation leaves alone.
E_UNINIT on an input that nothing has written (R260, R41): CAPRESP in the first seed programming when SECKEY_INDEX is
not given, else IDWORD or CAPRESP in the comparison, with both answers kept (that both are read whatever the first
answer was is DEDUCED, log 20, and that IDWORD is named when both are unwritten, log 24). An index of any width is programmed
(log 31). That the session takes exactly one wait of the engine is the model's choice (log 32). Rests on the spec decisions
D22, D27, D33 (92_eei_decisions.md). -/
def Obligations.CtrUnlockRunsTheHandshake : Prop :=
  ∀ (dev : BitVec 1) (s : State), s.sessionReady dev → s.promptStatus → s.promptAccepts →
    let pt := (specSession s dev).1
    let ok := (specSession s dev).2
    let ch0 := s.env.afterAccept.drawAt 0
    let ch1 := s.env.afterAccept.drawAt 1
    let seed2 : Quad := ⟨pt.w0, pt.w1, bswap32 ch0, bswap32 ch1⟩
    let key := s.cfg.secKeyIndex.getD s.inputs.capresp.val.toNat
    let id := s.inputs.idword.val
    let cap := s.inputs.capresp.val
    let chalA := cmdChalA s.cfg ch0 ch1
    let chalB := cmdChalB s.cfg ch0 ch1
    let e0 := (s.env.afterAccept.afterDraws 2).afterAccepts 4
    let r0 := e0.xferAnswer
    let r1 := e0.afterXfer.xferAnswer
    let confirmed := r0 = id ∧ r1 = cap
    let asked := e0.afterXfers 2
    let e1 := if confirmed then asked.withStatus (transferLeft asked.status 0) else asked
    let programmed := [EnvCall.ctrSecKey key, .ctrSecSeed pt, .ctrSecKey key, .ctrSecSeed seed2]
    let challenges := xferCalls s.cfg chalA e0 ++ xferCalls s.cfg chalB e0.afterXfer
    (s.inputs.idword.written = true → s.inputs.capresp.written = true →
      ∃ t, exec (.ctrUnlock dev) s = .next t ∧ t.response = some .done ∧
        t.aes = { s.aes with aesout := .holding seed2, macv := ok } ∧
        t.trace = s.trace ++ sessionCalls s dev ++ programmed ++ challenges ++
          (if confirmed then [.ctrCmdWrite (cmdConfirm s.cfg ch0 ch1), .ctrStart s.cfg.pageCode.code0 1] else []) ++
          resendCalls s.cfg chalA 5 e1 ∧
        t.seq = { s.seq with
          resp0 := .holding (e1.afterXfers 4).xferAnswer
          resp1 := .holding r1
          respMismatch := s.seq.respMismatch || !decide confirmed } ∧
        t.log = s.log ++ macLog ok ++
          (if confirmed then [] else if r0 = id then [.mismatchResponse 1 cap r1] else [.mismatchResponse 0 id r0]) ∧
        t.transport = ⟨.holding chalA, .holding 4, .holding s.cfg.pageCode.code4, .holding 1, .holding 4,
          .holding (BitVec.ofNat 32 (4 * (e1.afterXfers 4).xferPops))⟩ ∧
        t.env = e1.afterXfers 5 ∧ t.dev = { s.dev with secKey := key, secSeed := seed2 } ∧
        t.cfg = s.cfg ∧ t.cipher = s.cipher ∧ t.command = s.command ∧ t.area = s.area ∧ t.inputs = s.inputs ∧
        t.mem = s.mem ∧ t.hung = s.hung ∧ t.inbox = s.inbox) ∧
    (s.cfg.secKeyIndex = none → s.inputs.capresp.written = false →
      ∃ t, exec (.ctrUnlock dev) s = .next t ∧ t.response = some (.fault (.uninit .capresp)) ∧
        t.aes = { s.aes with aesout := .holding pt, macv := ok } ∧ t.trace = s.trace ++ sessionCalls s dev ∧
        t.seq = s.seq ∧ t.dev = s.dev) ∧
    (∀ input, (input = .idword ∧ s.inputs.idword.written = false ∨
        input = .capresp ∧ s.inputs.idword.written = true ∧ s.inputs.capresp.written = false) →
      (s.cfg.secKeyIndex = none → s.inputs.capresp.written = true) →
      ∃ t, exec (.ctrUnlock dev) s = .next t ∧ t.response = some (.fault (.uninit input)) ∧
        t.trace = s.trace ++ sessionCalls s dev ++ programmed ++ challenges ∧
        t.seq = { s.seq with resp0 := .holding r0, resp1 := .holding r1 } ∧ t.log = s.log ++ macLog ok)

/-- Every step keeps the invariant, from every state that has it (`State.Inv`; 20_memory.md R60, 10_state.md R30 to R35,
45_ctr_transport.md R210 corner case e, 60_exceptions.md R281). -/
def Obligations.StepKeepsInvariant : Prop := ∀ s t : State, s.Inv → step s = .next t → t.Inv

/-- The state after reset has the invariant. -/
def Obligations.ResetSatisfiesInvariant : Prop := State.reset.Inv

/-- No operation writes the parameters or the collaborators' inputs, nor takes further host events (R36, R311, R26). -/
def Obligations.OperationsLeaveParametersAndInputs : Prop :=
  ∀ (i : Instr) (s t : State), exec i s = .next t → t.cfg = s.cfg ∧ t.inputs = s.inputs ∧ t.inbox = s.inbox

/-- The log is append-only and the mismatch bits are sticky: no operation takes an entry away or clears a bit (R283,
R35). Rests on the spec decision D29 (92_eei_decisions.md). -/
def Obligations.LogGrowsAndMismatchesStick : Prop :=
  ∀ (i : Instr) (s t : State), exec i s = .next t →
    s.log <+: t.log ∧ s.trace <+: t.trace ∧ (s.seq.idMismatch = true → t.seq.idMismatch = true) ∧
      (s.seq.respMismatch = true → t.seq.respMismatch = true)

/-- Host memory is written by CTR.XFER only (10_state.md R42, 20_memory.md R60): every byte reads as before after any
other instruction. -/
def Obligations.OnlyTransfersWriteHostMemory : Prop :=
  ∀ (i : Instr) (s t : State), exec i s = .next t →
    (match i with
      | .ctrXfer _ _ _ _ _ _ dv _ => dv = 0
      | _ => True) →
    ∀ a, Memory.read t.mem a = Memory.read s.mem a

/-- Who writes units U1 and U2. T, K and TVALID are written only by KS.INIT (and its two spellings), SA.DECRYPT and
NTR.UNLOCK (R21, R22, R23), and BLK only by K1.ENC and K1.DEC (R24). SES and SVALID are written only by SES.SEED and
NTR.UNLOCK, but for SES.CNT, which CMD.BUILD in all its spellings steps too (R28, R29, R167); PFRAME and EFRAME only by
the builds and NTR.UNLOCK (R30). Rests on the spec decisions D4, D18, D35 (92_eei_decisions.md). -/
def Obligations.OnlySchedulesWriteTheTable : Prop :=
  ∀ (i : Instr) (s t : State), exec i s = .next t →
    (match i with
      | .ksInit _ _ _ | .ksLight _ _ | .ksFull _ _ | .saDecrypt _ _ | .ntrUnlock _ => True
      | _ => t.cipher.sched = s.cipher.sched ∧ t.cipher.tvalid = s.cipher.tvalid) ∧
    (match i with
      | .k1Enc _ _ | .k1Dec _ _ => True
      | _ => t.cipher.blk0 = s.cipher.blk0 ∧ t.cipher.blk1 = s.cipher.blk1) ∧
    (match i with
      | .sesSeed | .ntrUnlock _ => True
      | .cmdBuild _ _ | .cmdActsec | .cmdChipid | .cmdSecread _ | .cmdDatamode | .frameActivateSec _ _ _ _
      | .frameSecureChipid _ _ _ _ | .frameSecureRead _ _ _ _ | .frameDataMode _ _ _ _ =>
        t.command.svalid = s.command.svalid ∧ { t.command.ses with cnt := s.command.ses.cnt } = s.command.ses
      | _ => t.command.svalid = s.command.svalid ∧ t.command.ses = s.command.ses) ∧
    (match i with
      | .ntrUnlock _ | .cmdActkey1 _ | .cmdBuild _ _ | .cmdActsec | .cmdChipid | .cmdSecread _ | .cmdDatamode
      | .frameActivateKey1G0 _ _ _ _ | .frameActivateKey1G1 _ _ _ _ | .frameActivateSec _ _ _ _
      | .frameSecureChipid _ _ _ _ | .frameSecureRead _ _ _ _ | .frameDataMode _ _ _ _ => True
      | _ => t.command.pframe = s.command.pframe ∧ t.command.eframe = s.command.eframe)

/-- Who writes the sequencing state and SA. PHASE, SECID, SMALLGEO and ST.IDMISMATCH are written only by NTR.UNLOCK (R34,
R35, R43, R290); RESP and ST.RESPMISMATCH only by CTR.UNLOCK (R43, R35); SA by no operation but SA.DECRYPT and
NTR.UNLOCK (R60) and the sector read driven by hand, which stands for NTR.UNLOCK's (log 15). Rests on the spec decision
D31 (92_eei_decisions.md). -/
def Obligations.OnlyNtrUnlockMovesThePhase : Prop :=
  ∀ (i : Instr) (s t : State), exec i s = .next t →
    ((∀ gen, i ≠ .ntrUnlock gen) →
      t.seq.phase = s.seq.phase ∧ t.seq.secid = s.seq.secid ∧ t.seq.smallgeo = s.seq.smallgeo ∧
        t.seq.idMismatch = s.seq.idMismatch) ∧
    ((∀ dev, i ≠ .ctrUnlock dev) →
      t.seq.resp0 = s.seq.resp0 ∧ t.seq.resp1 = s.seq.resp1 ∧ t.seq.respMismatch = s.seq.respMismatch) ∧
    (match i with
      | .saDecrypt _ _ | .ntrUnlock _ | .frameDataRead _ => True
      | _ => t.area = s.area)

/-- Who writes units U4 and U5. AESIN is written by no operation, AESOUT and MACV only by AES.SESSION and CTR.UNLOCK (R31,
R32); the transfer registers only by CTR.XFER, CTR.SEND and CTR.UNLOCK (R33). -/
def Obligations.OnlySessionsWriteTheAesUnit : Prop :=
  ∀ (i : Instr) (s t : State), exec i s = .next t →
    t.aes.aesin = s.aes.aesin ∧
    ((∀ dev, i ≠ .aesSession dev ∧ i ≠ .ctrUnlock dev) → t.aes = s.aes) ∧
    (match i with
      | .ctrXfer _ _ _ _ _ _ _ _ | .ctrSend _ _ _ _ _ | .ctrUnlock _ => True
      | _ => t.transport = s.transport)
end

