-- ==== Sys2Proof/Laws/State.lean ====
section
/-! SUPPORT. One lemma per field per update of State: what `State.set<Field>` leaves in each field. -/

namespace Sys2Proof.Machine

@[simp] theorem State.setCipher_cfg (s : State) (v : CipherUnit) : (s.setCipher v).cfg = s.cfg := rfl
@[simp] theorem State.setCipher_cipher (s : State) (v : CipherUnit) : (s.setCipher v).cipher = v := rfl
@[simp] theorem State.setCipher_command (s : State) (v : CipherUnit) : (s.setCipher v).command = s.command := rfl
@[simp] theorem State.setCipher_area (s : State) (v : CipherUnit) : (s.setCipher v).area = s.area := rfl
@[simp] theorem State.setCipher_aes (s : State) (v : CipherUnit) : (s.setCipher v).aes = s.aes := rfl
@[simp] theorem State.setCipher_transport (s : State) (v : CipherUnit) : (s.setCipher v).transport = s.transport := rfl
@[simp] theorem State.setCipher_seq (s : State) (v : CipherUnit) : (s.setCipher v).seq = s.seq := rfl
@[simp] theorem State.setCipher_inputs (s : State) (v : CipherUnit) : (s.setCipher v).inputs = s.inputs := rfl
@[simp] theorem State.setCipher_mem (s : State) (v : CipherUnit) : (s.setCipher v).mem = s.mem := rfl
@[simp] theorem State.setCipher_log (s : State) (v : CipherUnit) : (s.setCipher v).log = s.log := rfl
@[simp] theorem State.setCipher_response (s : State) (v : CipherUnit) : (s.setCipher v).response = s.response := rfl
@[simp] theorem State.setCipher_hung (s : State) (v : CipherUnit) : (s.setCipher v).hung = s.hung := rfl
@[simp] theorem State.setCipher_dev (s : State) (v : CipherUnit) : (s.setCipher v).dev = s.dev := rfl
@[simp] theorem State.setCipher_env (s : State) (v : CipherUnit) : (s.setCipher v).env = s.env := rfl
@[simp] theorem State.setCipher_trace (s : State) (v : CipherUnit) : (s.setCipher v).trace = s.trace := rfl
@[simp] theorem State.setCipher_inbox (s : State) (v : CipherUnit) : (s.setCipher v).inbox = s.inbox := rfl
@[simp] theorem State.setCipher_resetIn (s : State) (v : CipherUnit) : (s.setCipher v).resetIn = s.resetIn := rfl
@[simp] theorem State.setCommand_cfg (s : State) (v : CommandUnit) : (s.setCommand v).cfg = s.cfg := rfl
@[simp] theorem State.setCommand_cipher (s : State) (v : CommandUnit) : (s.setCommand v).cipher = s.cipher := rfl
@[simp] theorem State.setCommand_command (s : State) (v : CommandUnit) : (s.setCommand v).command = v := rfl
@[simp] theorem State.setCommand_area (s : State) (v : CommandUnit) : (s.setCommand v).area = s.area := rfl
@[simp] theorem State.setCommand_aes (s : State) (v : CommandUnit) : (s.setCommand v).aes = s.aes := rfl
@[simp] theorem State.setCommand_transport (s : State) (v : CommandUnit) : (s.setCommand v).transport = s.transport := rfl
@[simp] theorem State.setCommand_seq (s : State) (v : CommandUnit) : (s.setCommand v).seq = s.seq := rfl
@[simp] theorem State.setCommand_inputs (s : State) (v : CommandUnit) : (s.setCommand v).inputs = s.inputs := rfl
@[simp] theorem State.setCommand_mem (s : State) (v : CommandUnit) : (s.setCommand v).mem = s.mem := rfl
@[simp] theorem State.setCommand_log (s : State) (v : CommandUnit) : (s.setCommand v).log = s.log := rfl
@[simp] theorem State.setCommand_response (s : State) (v : CommandUnit) : (s.setCommand v).response = s.response := rfl
@[simp] theorem State.setCommand_hung (s : State) (v : CommandUnit) : (s.setCommand v).hung = s.hung := rfl
@[simp] theorem State.setCommand_dev (s : State) (v : CommandUnit) : (s.setCommand v).dev = s.dev := rfl
@[simp] theorem State.setCommand_env (s : State) (v : CommandUnit) : (s.setCommand v).env = s.env := rfl
@[simp] theorem State.setCommand_trace (s : State) (v : CommandUnit) : (s.setCommand v).trace = s.trace := rfl
@[simp] theorem State.setCommand_inbox (s : State) (v : CommandUnit) : (s.setCommand v).inbox = s.inbox := rfl
@[simp] theorem State.setCommand_resetIn (s : State) (v : CommandUnit) : (s.setCommand v).resetIn = s.resetIn := rfl
@[simp] theorem State.setArea_cfg (s : State) (v : Area) : (s.setArea v).cfg = s.cfg := rfl
@[simp] theorem State.setArea_cipher (s : State) (v : Area) : (s.setArea v).cipher = s.cipher := rfl
@[simp] theorem State.setArea_command (s : State) (v : Area) : (s.setArea v).command = s.command := rfl
@[simp] theorem State.setArea_area (s : State) (v : Area) : (s.setArea v).area = v := rfl
@[simp] theorem State.setArea_aes (s : State) (v : Area) : (s.setArea v).aes = s.aes := rfl
@[simp] theorem State.setArea_transport (s : State) (v : Area) : (s.setArea v).transport = s.transport := rfl
@[simp] theorem State.setArea_seq (s : State) (v : Area) : (s.setArea v).seq = s.seq := rfl
@[simp] theorem State.setArea_inputs (s : State) (v : Area) : (s.setArea v).inputs = s.inputs := rfl
@[simp] theorem State.setArea_mem (s : State) (v : Area) : (s.setArea v).mem = s.mem := rfl
@[simp] theorem State.setArea_log (s : State) (v : Area) : (s.setArea v).log = s.log := rfl
@[simp] theorem State.setArea_response (s : State) (v : Area) : (s.setArea v).response = s.response := rfl
@[simp] theorem State.setArea_hung (s : State) (v : Area) : (s.setArea v).hung = s.hung := rfl
@[simp] theorem State.setArea_dev (s : State) (v : Area) : (s.setArea v).dev = s.dev := rfl
@[simp] theorem State.setArea_env (s : State) (v : Area) : (s.setArea v).env = s.env := rfl
@[simp] theorem State.setArea_trace (s : State) (v : Area) : (s.setArea v).trace = s.trace := rfl
@[simp] theorem State.setArea_inbox (s : State) (v : Area) : (s.setArea v).inbox = s.inbox := rfl
@[simp] theorem State.setArea_resetIn (s : State) (v : Area) : (s.setArea v).resetIn = s.resetIn := rfl
@[simp] theorem State.setAes_cfg (s : State) (v : AesUnit) : (s.setAes v).cfg = s.cfg := rfl
@[simp] theorem State.setAes_cipher (s : State) (v : AesUnit) : (s.setAes v).cipher = s.cipher := rfl
@[simp] theorem State.setAes_command (s : State) (v : AesUnit) : (s.setAes v).command = s.command := rfl
@[simp] theorem State.setAes_area (s : State) (v : AesUnit) : (s.setAes v).area = s.area := rfl
@[simp] theorem State.setAes_aes (s : State) (v : AesUnit) : (s.setAes v).aes = v := rfl
@[simp] theorem State.setAes_transport (s : State) (v : AesUnit) : (s.setAes v).transport = s.transport := rfl
@[simp] theorem State.setAes_seq (s : State) (v : AesUnit) : (s.setAes v).seq = s.seq := rfl
@[simp] theorem State.setAes_inputs (s : State) (v : AesUnit) : (s.setAes v).inputs = s.inputs := rfl
@[simp] theorem State.setAes_mem (s : State) (v : AesUnit) : (s.setAes v).mem = s.mem := rfl
@[simp] theorem State.setAes_log (s : State) (v : AesUnit) : (s.setAes v).log = s.log := rfl
@[simp] theorem State.setAes_response (s : State) (v : AesUnit) : (s.setAes v).response = s.response := rfl
@[simp] theorem State.setAes_hung (s : State) (v : AesUnit) : (s.setAes v).hung = s.hung := rfl
@[simp] theorem State.setAes_dev (s : State) (v : AesUnit) : (s.setAes v).dev = s.dev := rfl
@[simp] theorem State.setAes_env (s : State) (v : AesUnit) : (s.setAes v).env = s.env := rfl
@[simp] theorem State.setAes_trace (s : State) (v : AesUnit) : (s.setAes v).trace = s.trace := rfl
@[simp] theorem State.setAes_inbox (s : State) (v : AesUnit) : (s.setAes v).inbox = s.inbox := rfl
@[simp] theorem State.setAes_resetIn (s : State) (v : AesUnit) : (s.setAes v).resetIn = s.resetIn := rfl
@[simp] theorem State.setTransport_cfg (s : State) (v : TransportUnit) : (s.setTransport v).cfg = s.cfg := rfl
@[simp] theorem State.setTransport_cipher (s : State) (v : TransportUnit) : (s.setTransport v).cipher = s.cipher := rfl
@[simp] theorem State.setTransport_command (s : State) (v : TransportUnit) : (s.setTransport v).command = s.command := rfl
@[simp] theorem State.setTransport_area (s : State) (v : TransportUnit) : (s.setTransport v).area = s.area := rfl
@[simp] theorem State.setTransport_aes (s : State) (v : TransportUnit) : (s.setTransport v).aes = s.aes := rfl
@[simp] theorem State.setTransport_transport (s : State) (v : TransportUnit) : (s.setTransport v).transport = v := rfl
@[simp] theorem State.setTransport_seq (s : State) (v : TransportUnit) : (s.setTransport v).seq = s.seq := rfl
@[simp] theorem State.setTransport_inputs (s : State) (v : TransportUnit) : (s.setTransport v).inputs = s.inputs := rfl
@[simp] theorem State.setTransport_mem (s : State) (v : TransportUnit) : (s.setTransport v).mem = s.mem := rfl
@[simp] theorem State.setTransport_log (s : State) (v : TransportUnit) : (s.setTransport v).log = s.log := rfl
@[simp] theorem State.setTransport_response (s : State) (v : TransportUnit) : (s.setTransport v).response = s.response := rfl
@[simp] theorem State.setTransport_hung (s : State) (v : TransportUnit) : (s.setTransport v).hung = s.hung := rfl
@[simp] theorem State.setTransport_dev (s : State) (v : TransportUnit) : (s.setTransport v).dev = s.dev := rfl
@[simp] theorem State.setTransport_env (s : State) (v : TransportUnit) : (s.setTransport v).env = s.env := rfl
@[simp] theorem State.setTransport_trace (s : State) (v : TransportUnit) : (s.setTransport v).trace = s.trace := rfl
@[simp] theorem State.setTransport_inbox (s : State) (v : TransportUnit) : (s.setTransport v).inbox = s.inbox := rfl
@[simp] theorem State.setTransport_resetIn (s : State) (v : TransportUnit) : (s.setTransport v).resetIn = s.resetIn := rfl
@[simp] theorem State.setSeq_cfg (s : State) (v : Sequencer) : (s.setSeq v).cfg = s.cfg := rfl
@[simp] theorem State.setSeq_cipher (s : State) (v : Sequencer) : (s.setSeq v).cipher = s.cipher := rfl
@[simp] theorem State.setSeq_command (s : State) (v : Sequencer) : (s.setSeq v).command = s.command := rfl
@[simp] theorem State.setSeq_area (s : State) (v : Sequencer) : (s.setSeq v).area = s.area := rfl
@[simp] theorem State.setSeq_aes (s : State) (v : Sequencer) : (s.setSeq v).aes = s.aes := rfl
@[simp] theorem State.setSeq_transport (s : State) (v : Sequencer) : (s.setSeq v).transport = s.transport := rfl
@[simp] theorem State.setSeq_seq (s : State) (v : Sequencer) : (s.setSeq v).seq = v := rfl
@[simp] theorem State.setSeq_inputs (s : State) (v : Sequencer) : (s.setSeq v).inputs = s.inputs := rfl
@[simp] theorem State.setSeq_mem (s : State) (v : Sequencer) : (s.setSeq v).mem = s.mem := rfl
@[simp] theorem State.setSeq_log (s : State) (v : Sequencer) : (s.setSeq v).log = s.log := rfl
@[simp] theorem State.setSeq_response (s : State) (v : Sequencer) : (s.setSeq v).response = s.response := rfl
@[simp] theorem State.setSeq_hung (s : State) (v : Sequencer) : (s.setSeq v).hung = s.hung := rfl
@[simp] theorem State.setSeq_dev (s : State) (v : Sequencer) : (s.setSeq v).dev = s.dev := rfl
@[simp] theorem State.setSeq_env (s : State) (v : Sequencer) : (s.setSeq v).env = s.env := rfl
@[simp] theorem State.setSeq_trace (s : State) (v : Sequencer) : (s.setSeq v).trace = s.trace := rfl
@[simp] theorem State.setSeq_inbox (s : State) (v : Sequencer) : (s.setSeq v).inbox = s.inbox := rfl
@[simp] theorem State.setSeq_resetIn (s : State) (v : Sequencer) : (s.setSeq v).resetIn = s.resetIn := rfl
@[simp] theorem State.setInputs_cfg (s : State) (v : Inputs) : (s.setInputs v).cfg = s.cfg := rfl
@[simp] theorem State.setInputs_cipher (s : State) (v : Inputs) : (s.setInputs v).cipher = s.cipher := rfl
@[simp] theorem State.setInputs_command (s : State) (v : Inputs) : (s.setInputs v).command = s.command := rfl
@[simp] theorem State.setInputs_area (s : State) (v : Inputs) : (s.setInputs v).area = s.area := rfl
@[simp] theorem State.setInputs_aes (s : State) (v : Inputs) : (s.setInputs v).aes = s.aes := rfl
@[simp] theorem State.setInputs_transport (s : State) (v : Inputs) : (s.setInputs v).transport = s.transport := rfl
@[simp] theorem State.setInputs_seq (s : State) (v : Inputs) : (s.setInputs v).seq = s.seq := rfl
@[simp] theorem State.setInputs_inputs (s : State) (v : Inputs) : (s.setInputs v).inputs = v := rfl
@[simp] theorem State.setInputs_mem (s : State) (v : Inputs) : (s.setInputs v).mem = s.mem := rfl
@[simp] theorem State.setInputs_log (s : State) (v : Inputs) : (s.setInputs v).log = s.log := rfl
@[simp] theorem State.setInputs_response (s : State) (v : Inputs) : (s.setInputs v).response = s.response := rfl
@[simp] theorem State.setInputs_hung (s : State) (v : Inputs) : (s.setInputs v).hung = s.hung := rfl
@[simp] theorem State.setInputs_dev (s : State) (v : Inputs) : (s.setInputs v).dev = s.dev := rfl
@[simp] theorem State.setInputs_env (s : State) (v : Inputs) : (s.setInputs v).env = s.env := rfl
@[simp] theorem State.setInputs_trace (s : State) (v : Inputs) : (s.setInputs v).trace = s.trace := rfl
@[simp] theorem State.setInputs_inbox (s : State) (v : Inputs) : (s.setInputs v).inbox = s.inbox := rfl
@[simp] theorem State.setInputs_resetIn (s : State) (v : Inputs) : (s.setInputs v).resetIn = s.resetIn := rfl
@[simp] theorem State.setMem_cfg (s : State) (v : Memory) : (s.setMem v).cfg = s.cfg := rfl
@[simp] theorem State.setMem_cipher (s : State) (v : Memory) : (s.setMem v).cipher = s.cipher := rfl
@[simp] theorem State.setMem_command (s : State) (v : Memory) : (s.setMem v).command = s.command := rfl
@[simp] theorem State.setMem_area (s : State) (v : Memory) : (s.setMem v).area = s.area := rfl
@[simp] theorem State.setMem_aes (s : State) (v : Memory) : (s.setMem v).aes = s.aes := rfl
@[simp] theorem State.setMem_transport (s : State) (v : Memory) : (s.setMem v).transport = s.transport := rfl
@[simp] theorem State.setMem_seq (s : State) (v : Memory) : (s.setMem v).seq = s.seq := rfl
@[simp] theorem State.setMem_inputs (s : State) (v : Memory) : (s.setMem v).inputs = s.inputs := rfl
@[simp] theorem State.setMem_mem (s : State) (v : Memory) : (s.setMem v).mem = v := rfl
@[simp] theorem State.setMem_log (s : State) (v : Memory) : (s.setMem v).log = s.log := rfl
@[simp] theorem State.setMem_response (s : State) (v : Memory) : (s.setMem v).response = s.response := rfl
@[simp] theorem State.setMem_hung (s : State) (v : Memory) : (s.setMem v).hung = s.hung := rfl
@[simp] theorem State.setMem_dev (s : State) (v : Memory) : (s.setMem v).dev = s.dev := rfl
@[simp] theorem State.setMem_env (s : State) (v : Memory) : (s.setMem v).env = s.env := rfl
@[simp] theorem State.setMem_trace (s : State) (v : Memory) : (s.setMem v).trace = s.trace := rfl
@[simp] theorem State.setMem_inbox (s : State) (v : Memory) : (s.setMem v).inbox = s.inbox := rfl
@[simp] theorem State.setMem_resetIn (s : State) (v : Memory) : (s.setMem v).resetIn = s.resetIn := rfl
@[simp] theorem State.setLog_cfg (s : State) (v : List LogEntry) : (s.setLog v).cfg = s.cfg := rfl
@[simp] theorem State.setLog_cipher (s : State) (v : List LogEntry) : (s.setLog v).cipher = s.cipher := rfl
@[simp] theorem State.setLog_command (s : State) (v : List LogEntry) : (s.setLog v).command = s.command := rfl
@[simp] theorem State.setLog_area (s : State) (v : List LogEntry) : (s.setLog v).area = s.area := rfl
@[simp] theorem State.setLog_aes (s : State) (v : List LogEntry) : (s.setLog v).aes = s.aes := rfl
@[simp] theorem State.setLog_transport (s : State) (v : List LogEntry) : (s.setLog v).transport = s.transport := rfl
@[simp] theorem State.setLog_seq (s : State) (v : List LogEntry) : (s.setLog v).seq = s.seq := rfl
@[simp] theorem State.setLog_inputs (s : State) (v : List LogEntry) : (s.setLog v).inputs = s.inputs := rfl
@[simp] theorem State.setLog_mem (s : State) (v : List LogEntry) : (s.setLog v).mem = s.mem := rfl
@[simp] theorem State.setLog_log (s : State) (v : List LogEntry) : (s.setLog v).log = v := rfl
@[simp] theorem State.setLog_response (s : State) (v : List LogEntry) : (s.setLog v).response = s.response := rfl
@[simp] theorem State.setLog_hung (s : State) (v : List LogEntry) : (s.setLog v).hung = s.hung := rfl
@[simp] theorem State.setLog_dev (s : State) (v : List LogEntry) : (s.setLog v).dev = s.dev := rfl
@[simp] theorem State.setLog_env (s : State) (v : List LogEntry) : (s.setLog v).env = s.env := rfl
@[simp] theorem State.setLog_trace (s : State) (v : List LogEntry) : (s.setLog v).trace = s.trace := rfl
@[simp] theorem State.setLog_inbox (s : State) (v : List LogEntry) : (s.setLog v).inbox = s.inbox := rfl
@[simp] theorem State.setLog_resetIn (s : State) (v : List LogEntry) : (s.setLog v).resetIn = s.resetIn := rfl
@[simp] theorem State.setResponse_cfg (s : State) (v : Option Response) : (s.setResponse v).cfg = s.cfg := rfl
@[simp] theorem State.setResponse_cipher (s : State) (v : Option Response) : (s.setResponse v).cipher = s.cipher := rfl
@[simp] theorem State.setResponse_command (s : State) (v : Option Response) : (s.setResponse v).command = s.command := rfl
@[simp] theorem State.setResponse_area (s : State) (v : Option Response) : (s.setResponse v).area = s.area := rfl
@[simp] theorem State.setResponse_aes (s : State) (v : Option Response) : (s.setResponse v).aes = s.aes := rfl
@[simp] theorem State.setResponse_transport (s : State) (v : Option Response) : (s.setResponse v).transport = s.transport := rfl
@[simp] theorem State.setResponse_seq (s : State) (v : Option Response) : (s.setResponse v).seq = s.seq := rfl
@[simp] theorem State.setResponse_inputs (s : State) (v : Option Response) : (s.setResponse v).inputs = s.inputs := rfl
@[simp] theorem State.setResponse_mem (s : State) (v : Option Response) : (s.setResponse v).mem = s.mem := rfl
@[simp] theorem State.setResponse_log (s : State) (v : Option Response) : (s.setResponse v).log = s.log := rfl
@[simp] theorem State.setResponse_response (s : State) (v : Option Response) : (s.setResponse v).response = v := rfl
@[simp] theorem State.setResponse_hung (s : State) (v : Option Response) : (s.setResponse v).hung = s.hung := rfl
@[simp] theorem State.setResponse_dev (s : State) (v : Option Response) : (s.setResponse v).dev = s.dev := rfl
@[simp] theorem State.setResponse_env (s : State) (v : Option Response) : (s.setResponse v).env = s.env := rfl
@[simp] theorem State.setResponse_trace (s : State) (v : Option Response) : (s.setResponse v).trace = s.trace := rfl
@[simp] theorem State.setResponse_inbox (s : State) (v : Option Response) : (s.setResponse v).inbox = s.inbox := rfl
@[simp] theorem State.setResponse_resetIn (s : State) (v : Option Response) : (s.setResponse v).resetIn = s.resetIn := rfl
@[simp] theorem State.setHung_cfg (s : State) (v : Option Wait) : (s.setHung v).cfg = s.cfg := rfl
@[simp] theorem State.setHung_cipher (s : State) (v : Option Wait) : (s.setHung v).cipher = s.cipher := rfl
@[simp] theorem State.setHung_command (s : State) (v : Option Wait) : (s.setHung v).command = s.command := rfl
@[simp] theorem State.setHung_area (s : State) (v : Option Wait) : (s.setHung v).area = s.area := rfl
@[simp] theorem State.setHung_aes (s : State) (v : Option Wait) : (s.setHung v).aes = s.aes := rfl
@[simp] theorem State.setHung_transport (s : State) (v : Option Wait) : (s.setHung v).transport = s.transport := rfl
@[simp] theorem State.setHung_seq (s : State) (v : Option Wait) : (s.setHung v).seq = s.seq := rfl
@[simp] theorem State.setHung_inputs (s : State) (v : Option Wait) : (s.setHung v).inputs = s.inputs := rfl
@[simp] theorem State.setHung_mem (s : State) (v : Option Wait) : (s.setHung v).mem = s.mem := rfl
@[simp] theorem State.setHung_log (s : State) (v : Option Wait) : (s.setHung v).log = s.log := rfl
@[simp] theorem State.setHung_response (s : State) (v : Option Wait) : (s.setHung v).response = s.response := rfl
@[simp] theorem State.setHung_hung (s : State) (v : Option Wait) : (s.setHung v).hung = v := rfl
@[simp] theorem State.setHung_dev (s : State) (v : Option Wait) : (s.setHung v).dev = s.dev := rfl
@[simp] theorem State.setHung_env (s : State) (v : Option Wait) : (s.setHung v).env = s.env := rfl
@[simp] theorem State.setHung_trace (s : State) (v : Option Wait) : (s.setHung v).trace = s.trace := rfl
@[simp] theorem State.setHung_inbox (s : State) (v : Option Wait) : (s.setHung v).inbox = s.inbox := rfl
@[simp] theorem State.setHung_resetIn (s : State) (v : Option Wait) : (s.setHung v).resetIn = s.resetIn := rfl
@[simp] theorem State.setDev_cfg (s : State) (v : Devices) : (s.setDev v).cfg = s.cfg := rfl
@[simp] theorem State.setDev_cipher (s : State) (v : Devices) : (s.setDev v).cipher = s.cipher := rfl
@[simp] theorem State.setDev_command (s : State) (v : Devices) : (s.setDev v).command = s.command := rfl
@[simp] theorem State.setDev_area (s : State) (v : Devices) : (s.setDev v).area = s.area := rfl
@[simp] theorem State.setDev_aes (s : State) (v : Devices) : (s.setDev v).aes = s.aes := rfl
@[simp] theorem State.setDev_transport (s : State) (v : Devices) : (s.setDev v).transport = s.transport := rfl
@[simp] theorem State.setDev_seq (s : State) (v : Devices) : (s.setDev v).seq = s.seq := rfl
@[simp] theorem State.setDev_inputs (s : State) (v : Devices) : (s.setDev v).inputs = s.inputs := rfl
@[simp] theorem State.setDev_mem (s : State) (v : Devices) : (s.setDev v).mem = s.mem := rfl
@[simp] theorem State.setDev_log (s : State) (v : Devices) : (s.setDev v).log = s.log := rfl
@[simp] theorem State.setDev_response (s : State) (v : Devices) : (s.setDev v).response = s.response := rfl
@[simp] theorem State.setDev_hung (s : State) (v : Devices) : (s.setDev v).hung = s.hung := rfl
@[simp] theorem State.setDev_dev (s : State) (v : Devices) : (s.setDev v).dev = v := rfl
@[simp] theorem State.setDev_env (s : State) (v : Devices) : (s.setDev v).env = s.env := rfl
@[simp] theorem State.setDev_trace (s : State) (v : Devices) : (s.setDev v).trace = s.trace := rfl
@[simp] theorem State.setDev_inbox (s : State) (v : Devices) : (s.setDev v).inbox = s.inbox := rfl
@[simp] theorem State.setDev_resetIn (s : State) (v : Devices) : (s.setDev v).resetIn = s.resetIn := rfl
@[simp] theorem State.setEnv_cfg (s : State) (v : Env) : (s.setEnv v).cfg = s.cfg := rfl
@[simp] theorem State.setEnv_cipher (s : State) (v : Env) : (s.setEnv v).cipher = s.cipher := rfl
@[simp] theorem State.setEnv_command (s : State) (v : Env) : (s.setEnv v).command = s.command := rfl
@[simp] theorem State.setEnv_area (s : State) (v : Env) : (s.setEnv v).area = s.area := rfl
@[simp] theorem State.setEnv_aes (s : State) (v : Env) : (s.setEnv v).aes = s.aes := rfl
@[simp] theorem State.setEnv_transport (s : State) (v : Env) : (s.setEnv v).transport = s.transport := rfl
@[simp] theorem State.setEnv_seq (s : State) (v : Env) : (s.setEnv v).seq = s.seq := rfl
@[simp] theorem State.setEnv_inputs (s : State) (v : Env) : (s.setEnv v).inputs = s.inputs := rfl
@[simp] theorem State.setEnv_mem (s : State) (v : Env) : (s.setEnv v).mem = s.mem := rfl
@[simp] theorem State.setEnv_log (s : State) (v : Env) : (s.setEnv v).log = s.log := rfl
@[simp] theorem State.setEnv_response (s : State) (v : Env) : (s.setEnv v).response = s.response := rfl
@[simp] theorem State.setEnv_hung (s : State) (v : Env) : (s.setEnv v).hung = s.hung := rfl
@[simp] theorem State.setEnv_dev (s : State) (v : Env) : (s.setEnv v).dev = s.dev := rfl
@[simp] theorem State.setEnv_env (s : State) (v : Env) : (s.setEnv v).env = v := rfl
@[simp] theorem State.setEnv_trace (s : State) (v : Env) : (s.setEnv v).trace = s.trace := rfl
@[simp] theorem State.setEnv_inbox (s : State) (v : Env) : (s.setEnv v).inbox = s.inbox := rfl
@[simp] theorem State.setEnv_resetIn (s : State) (v : Env) : (s.setEnv v).resetIn = s.resetIn := rfl
@[simp] theorem State.setTrace_cfg (s : State) (v : List EnvCall) : (s.setTrace v).cfg = s.cfg := rfl
@[simp] theorem State.setTrace_cipher (s : State) (v : List EnvCall) : (s.setTrace v).cipher = s.cipher := rfl
@[simp] theorem State.setTrace_command (s : State) (v : List EnvCall) : (s.setTrace v).command = s.command := rfl
@[simp] theorem State.setTrace_area (s : State) (v : List EnvCall) : (s.setTrace v).area = s.area := rfl
@[simp] theorem State.setTrace_aes (s : State) (v : List EnvCall) : (s.setTrace v).aes = s.aes := rfl
@[simp] theorem State.setTrace_transport (s : State) (v : List EnvCall) : (s.setTrace v).transport = s.transport := rfl
@[simp] theorem State.setTrace_seq (s : State) (v : List EnvCall) : (s.setTrace v).seq = s.seq := rfl
@[simp] theorem State.setTrace_inputs (s : State) (v : List EnvCall) : (s.setTrace v).inputs = s.inputs := rfl
@[simp] theorem State.setTrace_mem (s : State) (v : List EnvCall) : (s.setTrace v).mem = s.mem := rfl
@[simp] theorem State.setTrace_log (s : State) (v : List EnvCall) : (s.setTrace v).log = s.log := rfl
@[simp] theorem State.setTrace_response (s : State) (v : List EnvCall) : (s.setTrace v).response = s.response := rfl
@[simp] theorem State.setTrace_hung (s : State) (v : List EnvCall) : (s.setTrace v).hung = s.hung := rfl
@[simp] theorem State.setTrace_dev (s : State) (v : List EnvCall) : (s.setTrace v).dev = s.dev := rfl
@[simp] theorem State.setTrace_env (s : State) (v : List EnvCall) : (s.setTrace v).env = s.env := rfl
@[simp] theorem State.setTrace_trace (s : State) (v : List EnvCall) : (s.setTrace v).trace = v := rfl
@[simp] theorem State.setTrace_inbox (s : State) (v : List EnvCall) : (s.setTrace v).inbox = s.inbox := rfl
@[simp] theorem State.setTrace_resetIn (s : State) (v : List EnvCall) : (s.setTrace v).resetIn = s.resetIn := rfl
@[simp] theorem State.setInbox_cfg (s : State) (v : List HostEvent) : (s.setInbox v).cfg = s.cfg := rfl
@[simp] theorem State.setInbox_cipher (s : State) (v : List HostEvent) : (s.setInbox v).cipher = s.cipher := rfl
@[simp] theorem State.setInbox_command (s : State) (v : List HostEvent) : (s.setInbox v).command = s.command := rfl
@[simp] theorem State.setInbox_area (s : State) (v : List HostEvent) : (s.setInbox v).area = s.area := rfl
@[simp] theorem State.setInbox_aes (s : State) (v : List HostEvent) : (s.setInbox v).aes = s.aes := rfl
@[simp] theorem State.setInbox_transport (s : State) (v : List HostEvent) : (s.setInbox v).transport = s.transport := rfl
@[simp] theorem State.setInbox_seq (s : State) (v : List HostEvent) : (s.setInbox v).seq = s.seq := rfl
@[simp] theorem State.setInbox_inputs (s : State) (v : List HostEvent) : (s.setInbox v).inputs = s.inputs := rfl
@[simp] theorem State.setInbox_mem (s : State) (v : List HostEvent) : (s.setInbox v).mem = s.mem := rfl
@[simp] theorem State.setInbox_log (s : State) (v : List HostEvent) : (s.setInbox v).log = s.log := rfl
@[simp] theorem State.setInbox_response (s : State) (v : List HostEvent) : (s.setInbox v).response = s.response := rfl
@[simp] theorem State.setInbox_hung (s : State) (v : List HostEvent) : (s.setInbox v).hung = s.hung := rfl
@[simp] theorem State.setInbox_dev (s : State) (v : List HostEvent) : (s.setInbox v).dev = s.dev := rfl
@[simp] theorem State.setInbox_env (s : State) (v : List HostEvent) : (s.setInbox v).env = s.env := rfl
@[simp] theorem State.setInbox_trace (s : State) (v : List HostEvent) : (s.setInbox v).trace = s.trace := rfl
@[simp] theorem State.setInbox_inbox (s : State) (v : List HostEvent) : (s.setInbox v).inbox = v := rfl
@[simp] theorem State.setInbox_resetIn (s : State) (v : List HostEvent) : (s.setInbox v).resetIn = s.resetIn := rfl
@[simp] theorem State.setResetIn_cfg (s : State) (v : Option Nat) : (s.setResetIn v).cfg = s.cfg := rfl
@[simp] theorem State.setResetIn_cipher (s : State) (v : Option Nat) : (s.setResetIn v).cipher = s.cipher := rfl
@[simp] theorem State.setResetIn_command (s : State) (v : Option Nat) : (s.setResetIn v).command = s.command := rfl
@[simp] theorem State.setResetIn_area (s : State) (v : Option Nat) : (s.setResetIn v).area = s.area := rfl
@[simp] theorem State.setResetIn_aes (s : State) (v : Option Nat) : (s.setResetIn v).aes = s.aes := rfl
@[simp] theorem State.setResetIn_transport (s : State) (v : Option Nat) : (s.setResetIn v).transport = s.transport := rfl
@[simp] theorem State.setResetIn_seq (s : State) (v : Option Nat) : (s.setResetIn v).seq = s.seq := rfl
@[simp] theorem State.setResetIn_inputs (s : State) (v : Option Nat) : (s.setResetIn v).inputs = s.inputs := rfl
@[simp] theorem State.setResetIn_mem (s : State) (v : Option Nat) : (s.setResetIn v).mem = s.mem := rfl
@[simp] theorem State.setResetIn_log (s : State) (v : Option Nat) : (s.setResetIn v).log = s.log := rfl
@[simp] theorem State.setResetIn_response (s : State) (v : Option Nat) : (s.setResetIn v).response = s.response := rfl
@[simp] theorem State.setResetIn_hung (s : State) (v : Option Nat) : (s.setResetIn v).hung = s.hung := rfl
@[simp] theorem State.setResetIn_dev (s : State) (v : Option Nat) : (s.setResetIn v).dev = s.dev := rfl
@[simp] theorem State.setResetIn_env (s : State) (v : Option Nat) : (s.setResetIn v).env = s.env := rfl
@[simp] theorem State.setResetIn_trace (s : State) (v : Option Nat) : (s.setResetIn v).trace = s.trace := rfl
@[simp] theorem State.setResetIn_inbox (s : State) (v : Option Nat) : (s.setResetIn v).inbox = s.inbox := rfl
@[simp] theorem State.setResetIn_resetIn (s : State) (v : Option Nat) : (s.setResetIn v).resetIn = v := rfl

@[simp] theorem State.setCipher_setCipher (s : State) (v w : CipherUnit) : (s.setCipher v).setCipher w = s.setCipher w := rfl
@[simp] theorem State.setCommand_setCommand (s : State) (v w : CommandUnit) : (s.setCommand v).setCommand w = s.setCommand w := rfl
@[simp] theorem State.setArea_setArea (s : State) (v w : Area) : (s.setArea v).setArea w = s.setArea w := rfl
@[simp] theorem State.setAes_setAes (s : State) (v w : AesUnit) : (s.setAes v).setAes w = s.setAes w := rfl
@[simp] theorem State.setTransport_setTransport (s : State) (v w : TransportUnit) : (s.setTransport v).setTransport w = s.setTransport w := rfl
@[simp] theorem State.setSeq_setSeq (s : State) (v w : Sequencer) : (s.setSeq v).setSeq w = s.setSeq w := rfl
@[simp] theorem State.setInputs_setInputs (s : State) (v w : Inputs) : (s.setInputs v).setInputs w = s.setInputs w := rfl
@[simp] theorem State.setMem_setMem (s : State) (v w : Memory) : (s.setMem v).setMem w = s.setMem w := rfl
@[simp] theorem State.setLog_setLog (s : State) (v w : List LogEntry) : (s.setLog v).setLog w = s.setLog w := rfl
@[simp] theorem State.setResponse_setResponse (s : State) (v w : Option Response) : (s.setResponse v).setResponse w = s.setResponse w := rfl
@[simp] theorem State.setHung_setHung (s : State) (v w : Option Wait) : (s.setHung v).setHung w = s.setHung w := rfl
@[simp] theorem State.setDev_setDev (s : State) (v w : Devices) : (s.setDev v).setDev w = s.setDev w := rfl
@[simp] theorem State.setEnv_setEnv (s : State) (v w : Env) : (s.setEnv v).setEnv w = s.setEnv w := rfl
@[simp] theorem State.setTrace_setTrace (s : State) (v w : List EnvCall) : (s.setTrace v).setTrace w = s.setTrace w := rfl
@[simp] theorem State.setInbox_setInbox (s : State) (v w : List HostEvent) : (s.setInbox v).setInbox w = s.setInbox w := rfl
@[simp] theorem State.setResetIn_setResetIn (s : State) (v w : Option Nat) : (s.setResetIn v).setResetIn w = s.setResetIn w := rfl

/-- What reset keeps (70_reset_and_hazards.md R311), and what it leaves elsewhere (10_state.md R40). -/
@[simp] theorem resetEvent_cfg (e : Env) (s : State) : (resetEvent e s).cfg = s.cfg := rfl
@[simp] theorem resetEvent_cipher (e : Env) (s : State) : (resetEvent e s).cipher = CipherUnit.reset := rfl
@[simp] theorem resetEvent_command (e : Env) (s : State) : (resetEvent e s).command = CommandUnit.reset := rfl
@[simp] theorem resetEvent_area (e : Env) (s : State) : (resetEvent e s).area = Area.reset := rfl
@[simp] theorem resetEvent_aes (e : Env) (s : State) : (resetEvent e s).aes = AesUnit.reset := rfl
@[simp] theorem resetEvent_transport (e : Env) (s : State) : (resetEvent e s).transport = TransportUnit.reset := rfl
@[simp] theorem resetEvent_seq (e : Env) (s : State) : (resetEvent e s).seq = Sequencer.reset := rfl
@[simp] theorem resetEvent_inputs (e : Env) (s : State) : (resetEvent e s).inputs = Inputs.reset := rfl
@[simp] theorem resetEvent_mem (e : Env) (s : State) : (resetEvent e s).mem = s.mem := rfl
@[simp] theorem resetEvent_log (e : Env) (s : State) : (resetEvent e s).log = [] := rfl
@[simp] theorem resetEvent_response (e : Env) (s : State) : (resetEvent e s).response = none := rfl
@[simp] theorem resetEvent_hung (e : Env) (s : State) : (resetEvent e s).hung = none := rfl
@[simp] theorem resetEvent_dev (e : Env) (s : State) : (resetEvent e s).dev = s.dev := rfl
@[simp] theorem resetEvent_env (e : Env) (s : State) : (resetEvent e s).env = { e with freeCtr := s.env.freeCtr } := rfl
@[simp] theorem resetEvent_trace (e : Env) (s : State) : (resetEvent e s).trace = s.trace := rfl
@[simp] theorem resetEvent_inbox (e : Env) (s : State) : (resetEvent e s).inbox = s.inbox := rfl
@[simp] theorem resetEvent_resetIn (e : Env) (s : State) : (resetEvent e s).resetIn = none := rfl

end Sys2Proof.Machine
end

