-- ==== Sys2Proof/Laws/Op.lean ====
section
/-! SUPPORT. How operations compose, and once for each shared operation what it answers. A prover cites these instead of
unfolding an operation. -/

namespace Sys2Proof.Machine

/-- Sequencing: the second operation runs in the state the first reached, unless the first ended early. -/
theorem Op.bind_apply {α β : Type} (m : Op α) (f : α → Op β) (s : State) :
    (m >>= f) s = match m s with
      | .ok a t => f a t
      | .error e t => .error e t := by
  show EStateM.bind m f s = _
  unfold EStateM.bind
  cases m s <;> rfl

theorem Op.bind_ok {α β : Type} {m : Op α} {f : α → Op β} {s t : State} {a : α} (h : m s = .ok a t) :
    (m >>= f) s = f a t := by rw [Op.bind_apply, h]

theorem Op.bind_error {α β : Type} {m : Op α} {f : α → Op β} {s t : State} {e : Stop} (h : m s = .error e t) :
    (m >>= f) s = .error e t := by rw [Op.bind_apply, h]

/-- A sequence that runs to its end: both parts do. -/
theorem Op.bind_eq_ok {α β : Type} {m : Op α} {f : α → Op β} {s u : State} {b : β} :
    (m >>= f) s = .ok b u ↔ ∃ a t, m s = .ok a t ∧ f a t = .ok b u := by
  rw [Op.bind_apply]
  cases h : m s with
  | ok a t => simp
  | error e t => simp

/-- A sequence that ends early: in its first part, or in its second. -/
theorem Op.bind_eq_error {α β : Type} {m : Op α} {f : α → Op β} {s u : State} {e : Stop} :
    (m >>= f) s = .error e u ↔ m s = .error e u ∨ ∃ a t, m s = .ok a t ∧ f a t = .error e u := by
  rw [Op.bind_apply]
  cases h : m s with
  | ok a t => simp
  | error e t => simp

@[simp] theorem pure_apply {α : Type} (a : α) (s : State) : (pure a : Op α) s = .ok a s := rfl
@[simp] theorem peek_apply {α : Type} (f : State → α) (s : State) : peek f s = .ok (f s) s := rfl
@[simp] theorem change_apply (f : State → State) (s : State) : change f s = .ok () (f s) := rfl
@[simp] theorem stop_apply {α : Type} (e : Stop) (s : State) : (stop e : Op α) s = .error e s := rfl
@[simp] theorem logEntry_apply (e : LogEntry) (s : State) : logEntry e s = .ok () (s.setLog (s.log ++ [e])) := rfl
@[simp] theorem draw_apply (s : State) : draw s = .ok s.env.nextDraw (s.setEnv s.env.afterDraw) := rfl
@[simp] theorem popFifo_apply (s : State) : popFifo s = .ok s.env.nextWord (s.setEnv s.env.afterPop) := rfl

/-- While no reset arrives an effect just happens. -/
theorem effect_apply {f : State → State} {s : State} (h : s.resetIn = none) : effect f s = .ok () (f s) := by
  simp only [effect, h]

/-- Everything an effect can do: happen, or happen with the reset one effect nearer, or be forestalled by the reset. -/
theorem effect_cases (f : State → State) (s : State) :
    (s.resetIn = none ∧ effect f s = .ok () (f s)) ∨
      (∃ n, s.resetIn = some (n + 1) ∧ effect f s = .ok () (f (s.setResetIn (some n)))) ∨
      (s.resetIn = some 0 ∧ effect f s = .error .reset s) := by
  unfold effect
  rcases h : s.resetIn with _ | _ | n
  · exact .inl ⟨rfl, rfl⟩
  · exact .inr (.inr ⟨rfl, rfl⟩)
  · exact .inr (.inl ⟨n, rfl, rfl⟩)

theorem call_apply (c : EnvCall) {s : State} (h : s.resetIn = none) :
    call c s = .ok () (s.setTrace (s.trace ++ [c])) := effect_apply h

theorem delay_apply (t : Nat) {s : State} (h : s.resetIn = none) :
    delay t s = .ok () (s.setTrace (s.trace ++ [.delay t])) := call_apply _ h

theorem onlyIf_true (m : Op Unit) (s : State) : onlyIf true m s = m s := rfl
theorem onlyIf_false (m : Op Unit) (s : State) : onlyIf false m s = .ok () s := rfl

/-- A written register is read; an unwritten one is E_UNINIT. -/
theorem readReg_apply {α : Type} (e : Element) (f : State → Reg α) (s : State) :
    readReg e f s = if (f s).written then .ok (f s).val s else .error (.event (.uninit e)) s := rfl

theorem readReg_written {α : Type} (e : Element) {f : State → Reg α} {s : State} (h : (f s).written = true) :
    readReg e f s = .ok (f s).val s := by rw [readReg_apply, h]; rfl

theorem needTable_valid {s : State} (h : s.cipher.tvalid = true) : needTable s = .ok () s := by
  simp [needTable, h]

theorem needTable_invalid {s : State} (h : s.cipher.tvalid = false) :
    needTable s = .error (.event (.uninit .table)) s := by
  simp [needTable, h]

theorem needSession_valid {s : State} (h : s.command.svalid = true) : needSession s = .ok () s := by
  simp [needSession, h]

theorem needSession_invalid {s : State} (h : s.command.svalid = false) :
    needSession s = .error (.event (.uninit .session)) s := by
  simp [needSession, h]

/-- Without a bound, a wait that ends does so. -/
theorem settle_some {w : Wait} {k : Nat} {s : State} (h : s.cfg.pollBound = none) : settle w (some k) s = .ok () s := by
  simp [settle, waitVerdict, h, reachedBound]

/-- Everything a wait can do: end, with the state as it is, or stop there. -/
theorem settle_cases (w : Wait) (polls : Option Nat) (s : State) :
    settle w polls s = .ok () s ∨ settle w polls s = .error (unsatisfied s.cfg.pollBound w) s := by
  cases polls with
  | none => exact .inr (by simp [settle, waitVerdict])
  | some k =>
    by_cases h : reachedBound s.cfg.pollBound k = true
    · exact .inr (by simp [settle, waitVerdict, h])
    · exact .inl (by simp [settle, waitVerdict, h])

/-- Everything a completion wait can do: one answer is used up, and it ends or stops there. -/
theorem awaitAccept_cases (w : Wait) (s : State) :
    awaitAccept w s = .ok () (s.setEnv s.env.afterAccept) ∨
      awaitAccept w s = .error (unsatisfied s.cfg.pollBound w) (s.setEnv s.env.afterAccept) :=
  settle_cases w _ _

/-- The state in which an `NtrSend` waits: the frame is sent and one answer used up. -/
def afterSend (f : Frame) (n : Nat) (s : State) : State :=
  (s.setTrace (s.trace ++ [.ntrSend f n])).setEnv s.env.afterReply

/-- Taking a reply is its wait, one answer used up. -/
theorem receiveReply_apply (n : Nat) (s : State) :
    receiveReply n s =
      match settle .ntrSend s.env.nextReply.polls (s.setEnv s.env.afterReply) with
      | .ok _ t => .ok (replyBytes s.env.nextReply.bytes s.env.freeCtr n) t
      | .error e t => .error e t := by
  unfold receiveReply
  rw [Op.bind_ok (peek_apply _ _), Op.bind_ok (peek_apply _ _), Op.bind_ok (change_apply _ _), Op.bind_apply]
  cases settle Wait.ntrSend s.env.nextReply.polls (s.setEnv s.env.afterReply) <;> rfl

/-- Everything a wait for a reply can do: deliver the bytes, or stop there. -/
theorem receiveReply_cases (n : Nat) (s : State) :
    receiveReply n s = .ok (replyBytes s.env.nextReply.bytes s.env.freeCtr n) (s.setEnv s.env.afterReply) ∨
      receiveReply n s = .error (unsatisfied s.cfg.pollBound .ntrSend) (s.setEnv s.env.afterReply) := by
  rw [receiveReply_apply]
  rcases settle_cases .ntrSend s.env.nextReply.polls (s.setEnv s.env.afterReply) with h | h <;> rw [h]
  · exact .inl rfl
  · exact .inr rfl

/-- Everything an `NtrSend` can do while no reset arrives: deliver its bytes, or stop in its wait. -/
theorem ntrSend_cases (f : Frame) (n : Nat) {s : State} (h : s.resetIn = none) :
    ntrSend f n s = .ok (replyBytes s.env.nextReply.bytes s.env.freeCtr n) (afterSend f n s) ∨
      ntrSend f n s = .error (unsatisfied s.cfg.pollBound .ntrSend) (afterSend f n s) := by
  unfold ntrSend
  rw [Op.bind_ok (call_apply _ h)]
  exact receiveReply_cases n _

/-- An `NtrSend` whose busy flag clears, without a bound on polls, delivers its bytes. -/
theorem ntrSend_answered (f : Frame) (n : Nat) {s : State} (h : s.resetIn = none) (hb : s.cfg.pollBound = none)
    (hp : s.env.nextReply.polls ≠ none) :
    ntrSend f n s = .ok (replyBytes s.env.nextReply.bytes s.env.freeCtr n) (afterSend f n s) := by
  obtain ⟨k, hk⟩ := Option.ne_none_iff_exists'.1 hp
  unfold ntrSend
  rw [Op.bind_ok (call_apply _ h), receiveReply_apply]
  simp only [State.setTrace_env]
  rw [hk, settle_some (by simpa using hb)]
  rfl

/-- An `NtrSend` that never returns stops in its wait. -/
theorem ntrSend_silent (f : Frame) (n : Nat) {s : State} (h : s.resetIn = none) (hp : s.env.nextReply.polls = none) :
    ntrSend f n s = .error (unsatisfied s.cfg.pollBound .ntrSend) (afterSend f n s) := by
  unfold ntrSend
  rw [Op.bind_ok (call_apply _ h), receiveReply_apply]
  simp only [State.setTrace_env]
  rw [hp]
  rfl

theorem replyBytes_length (given : List Byte) (ctr n : Nat) : (replyBytes given ctr n).length = n := by
  simp [replyBytes]

/-- Everything one sample can do: answer the next sample, or stop at the bound with nothing taken. -/
theorem sampleStatus_cases (w : Wait) (count : Nat) (s : State) :
    sampleStatus w count s = .ok s.env.nextSample (s.setEnv s.env.afterSample) ∨
      sampleStatus w count s = .error (unsatisfied s.cfg.pollBound w) s := by
  unfold sampleStatus
  split
  · exact .inr rfl
  · exact .inl rfl

/-- Everything a wait on the status can do: use up samples, then end or stop there. -/
theorem awaitStatus_cases (w : Wait) (goal : Sample → Bool) (s : State) :
    ∃ left, awaitStatus w goal s = .ok () (s.setEnv (s.env.withStatus left)) ∨
      awaitStatus w goal s = .error (unsatisfied s.cfg.pollBound w) (s.setEnv (s.env.withStatus left)) := by
  refine ⟨(pollUntil s.cfg.pollBound goal s.env.statusRest 0 s.env.status).2, ?_⟩
  simp only [awaitStatus]
  split
  · exact .inl rfl
  · exact .inr rfl

/-- Without a bound, a wait that the steady answer satisfies is met. -/
theorem pollUntil_met (goal : Sample → Bool) {rest : Sample} (h : goal rest = true) : ∀ (count : Nat) (xs : List Sample),
    (pollUntil none goal rest count xs).1 = true
  | _, [] => by simp [pollUntil, reachedBound, h]
  | count, x :: xs => by
    simp only [pollUntil, reachedBound]
    cases goal x
    · exact pollUntil_met goal h (count + 1) xs
    · rfl

theorem pollUntil_suffix (bound : Option Nat) (goal : Sample → Bool) (rest : Sample) : ∀ (count : Nat) (xs : List Sample),
    (pollUntil bound goal rest count xs).2 <:+ xs
  | _, [] => List.suffix_refl _
  | count, x :: xs => by
    simp only [pollUntil]
    split
    · exact List.suffix_refl _
    · split
      · exact List.suffix_cons _ _
      · exact (pollUntil_suffix bound goal rest (count + 1) xs).trans (List.suffix_cons _ _)

/-- Without a bound, a wait on the status that the steady answer satisfies ends. -/
theorem awaitStatus_met (w : Wait) {goal : Sample → Bool} {s : State} (hb : s.cfg.pollBound = none)
    (hg : goal s.env.statusRest = true) :
    awaitStatus w goal s =
      .ok () (s.setEnv (s.env.withStatus (pollUntil none goal s.env.statusRest 0 s.env.status).2)) := by
  simp only [awaitStatus]
  rw [hb, if_pos (pollUntil_met goal hg 0 s.env.status)]

/-- Everything an operation can do to the block: its response record is the answer or the event, or it hangs. -/
theorem perform_cases (m : Op Response) (s : State) :
    (∃ r t, m s = .ok r t ∧ perform m s = .next (t.setResponse (some r))) ∨
      (∃ e t, m s = .error e t ∧ perform m s = .next (takeStop e t)) := by
  cases h : m s with
  | ok r t => exact .inl ⟨r, t, rfl, by simp [perform, h]⟩
  | error e t => exact .inr ⟨e, t, rfl, by simp [perform, h]⟩

theorem perform_ok {m : Op Response} {s t : State} {r : Response} (h : m s = .ok r t) :
    perform m s = .next (t.setResponse (some r)) := by simp [perform, h]

theorem perform_error {m : Op Response} {s t : State} {e : Stop} (h : m s = .error e t) :
    perform m s = .next (takeStop e t) := by simp [perform, h]

/-- A wait hangs only without a bound on polls. -/
theorem unsatisfied_hang {bound : Option Nat} {w v : Wait} (h : unsatisfied bound w = .hang v) : bound = none := by
  cases bound with
  | none => rfl
  | some b => cases h

/-- `R` holds from `s` to the state an answer reached, at its end or where it stopped; and it hangs only without a
bound on polls. -/
def Keeps {α : Type} (R : State → State → Prop) (s : State) (r : EStateM.Result Stop State α) : Prop :=
  match r with
  | .ok _ t => R s t
  | .error e t => R s t ∧ ∀ w, e = .hang w → t.cfg.pollBound = none

/-- `m` relates every state it starts in to the state it reaches, whether it runs to its end or stops before. -/
def Op.Respects {α : Type} (R : State → State → Prop) (m : Op α) : Prop := ∀ s, Keeps R s (m s)

theorem Op.Respects.ok {α : Type} {R : State → State → Prop} {m : Op α} (h : m.Respects R) {s t : State} {a : α}
    (hs : m s = .ok a t) : R s t := by have := h s; rwa [hs] at this

theorem Op.Respects.error {α : Type} {R : State → State → Prop} {m : Op α} (h : m.Respects R) {s t : State} {e : Stop}
    (hs : m s = .error e t) : R s t ∧ ∀ w, e = .hang w → t.cfg.pollBound = none := by
  have := h s; rwa [hs] at this

theorem Op.respects_pure {α : Type} {R : State → State → Prop} (hr : ∀ s, R s s) (a : α) :
    (pure a : Op α).Respects R := fun s => hr s

theorem Op.respects_peek {α : Type} {R : State → State → Prop} (hr : ∀ s, R s s) (f : State → α) :
    (peek f).Respects R := fun s => hr s

theorem Op.respects_change {R : State → State → Prop} {f : State → State} (h : ∀ s, R s (f s)) :
    (change f).Respects R := h

/-- An effect keeps what its change keeps and what the reset's coming nearer keeps. -/
theorem Op.respects_effect {R : State → State → Prop} (hr : ∀ s, R s s) (ht : ∀ a b c, R a b → R b c → R a c)
    (hc : ∀ s n, s.resetIn = some (n + 1) → R s (s.setResetIn (some n))) {f : State → State} (h : ∀ s, R s (f s)) :
    (effect f).Respects R := by
  intro s
  rcases effect_cases f s with ⟨-, e⟩ | ⟨n, hn, e⟩ | ⟨-, e⟩ <;> rw [e]
  · exact h s
  · exact ht _ _ _ (hc s n hn) (h _)
  · exact ⟨hr s, fun w hw => by cases hw⟩

/-- What runs from a related state on keeps what composes with it. -/
theorem Keeps.after {α : Type} {R : State → State → Prop} (ht : ∀ a b c, R a b → R b c → R a c) {s t : State}
    {r : EStateM.Result Stop State α} (h : R s t) (hr : Keeps R t r) : Keeps R s r := by
  cases r with
  | ok a u => exact ht _ _ _ h hr
  | error e u => exact ⟨ht _ _ _ h hr.1, hr.2⟩

/-- A weaker relation, from another state. -/
theorem Keeps.imp {α : Type} {R R' : State → State → Prop} {s u : State} {r : EStateM.Result Stop State α}
    (h : ∀ t, R u t → R' s t) (hr : Keeps R u r) : Keeps R' s r := by
  cases r with
  | ok a t => exact h _ hr
  | error e t => exact ⟨h _ hr.1, hr.2⟩

/-- An event that is no hang, with the state as it is. -/
theorem Keeps.event {α : Type} {R : State → State → Prop} {s t : State} {e : Event} (h : R s t) :
    Keeps R s (.error (.event e) t : EStateM.Result Stop State α) := ⟨h, fun _ hw => by cases hw⟩

/-- A wait that ends without success. -/
theorem Keeps.waited {α : Type} {R : State → State → Prop} {s t : State} {w : Wait} (h : R s t) :
    Keeps R s (.error (unsatisfied t.cfg.pollBound w) t : EStateM.Result Stop State α) :=
  ⟨h, fun _ hw => unsatisfied_hang hw⟩

theorem Op.respects_bind {α β : Type} {R : State → State → Prop} (ht : ∀ a b c, R a b → R b c → R a c)
    {m : Op α} {f : α → Op β} (hm : m.Respects R) (hf : ∀ a, (f a).Respects R) : (m >>= f).Respects R := by
  intro s
  cases h : m s with
  | error e t => rw [Op.bind_error h]; exact hm.error h
  | ok a t => rw [Op.bind_ok h]; exact Keeps.after ht (hm.ok h) (hf a t)

theorem Op.respects_onlyIf {R : State → State → Prop} (hr : ∀ s, R s s) (c : Bool) {m : Op Unit} (h : m.Respects R) :
    (onlyIf c m).Respects R := by
  cases c
  · exact fun s => hr s
  · exact h

theorem Op.respects_readReg {α : Type} {R : State → State → Prop} (hr : ∀ s, R s s) (e : Element)
    (f : State → Reg α) : (readReg e f).Respects R := by
  intro s
  cases h : (f s).written with
  | false => rw [readReg_apply, h]; exact Keeps.event (hr s)
  | true => rw [readReg_written e h]; exact hr s

end Sys2Proof.Machine
end

