-- ==== Sys2Proof/Laws/Area.lean ====
section
/-! SUPPORT. The secure-area buffer read and written by word number, and what DecBlock answers. -/

namespace Sys2Proof.Machine

theorem areaIndex_val {i : Nat} (h : i < 0x1000) : (areaIndex i).val = i := Nat.mod_eq_of_lt h

theorem areaWord_eq (a : Area) {i : Nat} (h : i < 0x1000) : areaWord a i = a[i] := by simp [areaWord, h]

theorem areaWord_index (a : Area) {i : Nat} (h : i < 0x1000) : a[areaIndex i] = areaWord a i := by
  rw [areaWord_eq a h]
  exact congrArg (fun k : Fin 0x1000 => a[k]) (Fin.ext (areaIndex_val h) : areaIndex i = ⟨i, h⟩)

/-- Reading a word of SA: its value, or E_UNINIT. -/
theorem readArea_apply {i : Nat} (h : i < 0x1000) (s : State) :
    readArea i s = if (areaWord s.area i).written then .ok (areaWord s.area i).val s
      else .error (.event (.uninit (.port (.sa ⟨i, h⟩)))) s := by
  have e : areaIndex i = ⟨i, h⟩ := Fin.ext (areaIndex_val h)
  rw [readArea, readReg_apply, areaWord_index s.area h, e]

theorem readArea_holding {i : Nat} (h : i < 0x1000) {s : State} {w : Word} (e : areaWord s.area i = .holding w) :
    readArea i s = .ok w s := by
  rw [readArea_apply h, e]
  rfl

theorem areaWord_areaSet (a : Area) {i j : Nat} (w : Word) (hi : i < 0x1000) (hj : j < 0x1000) :
    areaWord (areaSet a i w) j = if i = j then .holding w else areaWord a j := by
  rw [areaWord_eq _ hj, areaWord_eq _ hj, areaSet, Vector.getElem_set]
  simp only [areaIndex_val hi]

/-- SA with block k written. -/
def blockSet (a : Area) (k : Nat) (b : Block) : Area := areaSet (areaSet a (2 * k) b.left) (2 * k + 1) b.right

theorem areaWord_blockSet (a : Area) {k j : Nat} (b : Block) (hk : k < 0x800) (hj : j < 0x1000) :
    areaWord (blockSet a k b) j =
      if j = 2 * k then .holding b.left else if j = 2 * k + 1 then .holding b.right else areaWord a j := by
  rw [blockSet, areaWord_areaSet _ _ (by omega) hj, areaWord_areaSet _ _ (by omega) hj]
  split_ifs <;> first | rfl | omega

/-- DecBlock on a block that holds its two words. -/
theorem decBlock_holding {k : Nat} (hk : k < 0x800) {s : State} {b : Block} (h : HoldsBlock s.area k b) :
    decBlock k s = .ok () (s.setArea (blockSet s.area k (dec s.cipher.sched.t b))) := by
  unfold decBlock
  rw [Op.bind_ok (readArea_holding (by omega) h.1), Op.bind_ok (readArea_holding (by omega) h.2),
    Op.bind_ok (peek_apply _ _)]
  rfl

end Sys2Proof.Machine
end

