-- ==== Sys2Proof/Laws/Respects.lean ====
section
/-! SUPPORT. What each operation writes, said once: an operation respects every relation on states that its own writes
respect. With `R s t := p s = p t` this is a frame, with `R s t := I s → I t` an invariant. -/

namespace Sys2Proof.Machine

/-- A relation that calls to the environment, its answers, the device registers, new log entries and a reset that comes
nearer respect. -/
structure Steady (R : State → State → Prop) : Prop where
  refl : ∀ s, R s s
  trans : ∀ a b c, R a b → R b c → R a c
  env : ∀ s v, R s (s.setEnv v)
  trace : ∀ s c, R s (s.setTrace (s.trace ++ [c]))
  dev : ∀ s v, R s (s.setDev v)
  log : ∀ s e, R s (s.setLog (s.log ++ [e]))
  nearer : ∀ s n, s.resetIn = some (n + 1) → R s (s.setResetIn (some n))

/-- The state after `storeWord`. -/
def storedAt (sink : Sink) (w : Word) (s : State) : State :=
  s.setMem (afterStores (sinkSteps sink s.transport.xcnt.val w) s.mem)

/-- The state after `bumpCount`. -/
def counted (s : State) : State := s.setTransport { s.transport with xcnt := .holding (s.transport.xcnt.val + 4) }

/-- A transfer has begun and is not complete. -/
def State.transferring (s : State) : Prop :=
  s.transport.xcnt.written = true ∧ s.transport.xcnt.val.toNat < s.transport.xlen.val.toNat

/-- Each store of a word, and counting it, in a transfer that has begun and is not complete. -/
structure PopRespects (R : State → State → Prop) (sink : Sink) : Prop where
  store : ∀ s w f, s.transferring → f ∈ sinkSteps sink s.transport.xcnt.val w → R s (s.setMem (f s.mem))
  count : ∀ s, s.transferring → R s (counted s)

namespace Steady

variable {R : State → State → Prop} (h : Steady R)
include h

theorem pure {α : Type} (a : α) : (Pure.pure a : Op α).Respects R := Op.respects_pure h.refl a
theorem peek {α : Type} (f : State → α) : (Machine.peek f).Respects R := Op.respects_peek h.refl f
theorem then' {a b c : State} (x : R a b) (y : R b c) : R a c := h.trans a b c x y
theorem bind {α β : Type} {m : Op α} {f : α → Op β} (hm : m.Respects R) (hf : ∀ a, (f a).Respects R) :
    (m >>= f).Respects R := Op.respects_bind h.trans hm hf
theorem effect {f : State → State} (hf : ∀ s, R s (f s)) : (Machine.effect f).Respects R :=
  Op.respects_effect h.refl h.trans h.nearer hf
theorem call (c : EnvCall) : (Machine.call c).Respects R := h.effect fun s => h.trace s c
theorem delay (t : Nat) : (Machine.delay t).Respects R := h.call _
theorem logEntry (e : LogEntry) : (Machine.logEntry e).Respects R := fun s => h.log s e
theorem draw : Machine.draw.Respects R := fun s => h.env s _
theorem popFifo : Machine.popFifo.Respects R := fun s => h.env s _
theorem readReg {α : Type} (e : Element) (f : State → Reg α) : (Machine.readReg e f).Respects R :=
  Op.respects_readReg h.refl e f

theorem needTable : Machine.needTable.Respects R := by
  intro s
  cases hv : s.cipher.tvalid with
  | false => rw [needTable_invalid hv]; exact Keeps.event (h.refl s)
  | true => rw [needTable_valid hv]; exact h.refl s

theorem needSession : Machine.needSession.Respects R := by
  intro s
  cases hv : s.command.svalid with
  | false => rw [needSession_invalid hv]; exact Keeps.event (h.refl s)
  | true => rw [needSession_valid hv]; exact h.refl s

theorem awaitAccept (w : Wait) : (Machine.awaitAccept w).Respects R := by
  intro s
  rcases awaitAccept_cases w s with e | e <;> rw [e]
  · exact h.env s _
  · exact Keeps.waited (t := s.setEnv _) (h.env s _)

theorem awaitStatus (w : Wait) (goal : Sample → Bool) : (Machine.awaitStatus w goal).Respects R := by
  intro s
  obtain ⟨l, e | e⟩ := awaitStatus_cases w goal s <;> rw [e]
  · exact h.env s _
  · exact Keeps.waited (t := s.setEnv _) (h.env s _)

theorem sampleStatus (w : Wait) (n : Nat) : (Machine.sampleStatus w n).Respects R := by
  intro s
  rcases sampleStatus_cases w n s with e | e <;> rw [e]
  · exact h.env s _
  · exact Keeps.waited (h.refl s)

theorem receiveReply (n : Nat) : (Machine.receiveReply n).Respects R := by
  intro s
  rcases receiveReply_cases n s with e | e <;> rw [e]
  · exact h.env s _
  · exact Keeps.waited (t := s.setEnv _) (h.env s _)

theorem ntrSend (f : Frame) (n : Nat) : (Machine.ntrSend f n).Respects R :=
  h.bind (h.call _) fun _ => h.receiveReply n

theorem seedWrite (x y : Frame) : (Machine.seedWrite x y).Respects R :=
  h.effect fun s => h.then' (h.trace s _) (h.dev _ _)

theorem ctrSecKey (v : Nat) : (Machine.ctrSecKey v).Respects R :=
  h.bind (h.call _) fun _ => h.bind (h.awaitAccept _) fun _ => h.effect fun s => h.dev s _

theorem ctrSecSeed (q : Quad) : (Machine.ctrSecSeed q).Respects R :=
  h.bind (h.call _) fun _ => h.bind (h.awaitAccept _) fun _ => h.effect fun s => h.dev s _

theorem readArea (i : Nat) : (Machine.readArea i).Respects R := h.readReg _ _
theorem readAesin (i : Fin 15) : (Machine.readAesin i).Respects R := h.readReg _ _

theorem readAesinQuad (a b c d : Fin 15) : (Machine.readAesinQuad a b c d).Respects R :=
  h.bind (h.readAesin a) fun _ => h.bind (h.readAesin b) fun _ => h.bind (h.readAesin c) fun _ =>
    h.bind (h.readAesin d) fun _ => h.pure _

theorem sessionKeySource (dev : BitVec 1) : (Machine.sessionKeySource dev).Respects R := by
  unfold Machine.sessionKeySource
  split
  · exact h.pure _
  · exact h.bind (h.readAesinQuad _ _ _ _) fun _ => h.bind (h.call _) fun _ => h.peek _

/-- A pass writes BLK. -/
theorem passOp (hblk : ∀ s b0 b1, R s (s.setCipher { s.cipher with blk0 := b0, blk1 := b1 }))
    (f : Table → Block → Block) (w0 w1 : Word) : (Machine.passOp f w0 w1).Respects R :=
  h.bind h.needTable fun _ => h.bind (h.peek _) fun _ s => hblk s _ _

omit h in
/-- KsInit writes T, K and TVALID. -/
theorem ksInit (hks : ∀ s b c st, R s (scheduled b c st s)) (base : Table) (code : Word) (stage : BitVec 1) :
    (Machine.ksInit base code stage).Respects R := fun s => hks s base code stage

/-- SES.SEED writes SES and SVALID. -/
theorem sesSeed (hses : ∀ s v, R s (s.setCommand { s.command with ses := v, svalid := true })) :
    Machine.sesSeed.Respects R :=
  h.bind h.draw fun _ => h.bind h.draw fun _ => h.bind h.draw fun _ => h.bind h.draw fun _ => h.bind h.draw fun _ =>
    h.bind h.draw fun _ s => hses s _

/-- CMD.ACTKEY1 writes PFRAME and EFRAME. -/
theorem actKey1 (hfr : ∀ s p e, R s (s.setCommand { s.command with pframe := .holding p, eframe := .holding e }))
    (gen : BitVec 1) : (Machine.actKey1 gen).Respects R :=
  h.bind h.needSession fun _ => h.bind (h.peek _) fun _ => h.bind h.draw fun _ s => hfr s _ _

theorem actKey1Op (hfr : ∀ s p e, R s (s.setCommand { s.command with pframe := .holding p, eframe := .holding e }))
    (gen : BitVec 1) : (Machine.actKey1Op gen).Respects R :=
  h.bind (h.actKey1 hfr gen) fun _ => h.peek _

/-- CMD.BUILD writes PFRAME, EFRAME and SES.CNT. -/
theorem cmdBuild (hfr : ∀ s p e, R s (s.setCommand { s.command with pframe := .holding p, eframe := .holding e }))
    (hcnt : ∀ s v, R s (s.setCommand { s.command with ses := { s.command.ses with cnt := v } }))
    (op : BitVec 8) (blk : BitVec 16) : (Machine.cmdBuild op blk).Respects R :=
  h.bind h.needSession fun _ => h.bind h.needTable fun _ => h.bind (h.peek _) fun _ => h.bind (h.peek _) fun _ =>
    h.bind (fun s => hfr s _ _) fun _ s => hcnt s _

theorem cmdBuildOp (hfr : ∀ s p e, R s (s.setCommand { s.command with pframe := .holding p, eframe := .holding e }))
    (hcnt : ∀ s v, R s (s.setCommand { s.command with ses := { s.command.ses with cnt := v } }))
    (op : BitVec 8) (blk : BitVec 16) : (Machine.cmdBuildOp op blk).Respects R :=
  h.bind (h.cmdBuild hfr hcnt op blk) fun _ => h.peek _

/-- DecBlock writes SA. -/
theorem decBlock (hsa : ∀ s v, R s (s.setArea v)) (k : Nat) : (Machine.decBlock k).Respects R :=
  h.bind (h.readArea _) fun _ => h.bind (h.readArea _) fun _ => h.bind (h.peek _) fun _ =>
    h.bind (fun s => hsa s _) fun _ s => hsa s _

theorem decBlocksFrom (hsa : ∀ s v, R s (s.setArea v)) : ∀ n k, (Machine.decBlocksFrom n k).Respects R
  | 0, _ => h.pure ()
  | n + 1, k => h.bind (h.decBlock hsa k) fun _ => decBlocksFrom hsa n (k + 1)

/-- SA.DECRYPT writes SA and what KsInit writes. -/
theorem saDecrypt (hsa : ∀ s v, R s (s.setArea v)) (hks : ∀ s b c st, R s (scheduled b c st s)) (base : Table)
    (code : Word) : (Machine.saDecrypt base code).Respects R :=
  h.bind (fun s => hks s _ _ _) fun _ => h.bind (h.peek _) fun _ => h.bind (h.decBlock hsa _) fun _ =>
    h.bind (fun s => hks s _ _ _) fun _ => h.bind (h.peek _) fun _ => h.bind (h.peek _) fun _ =>
      h.decBlocksFrom hsa _ _

/-- AES.SESSION writes AESOUT and MACV. -/
theorem aesSession (hout : ∀ s pt ok, R s (s.setAes { s.aes with aesout := .holding pt, macv := ok })) (dev : BitVec 1) :
    (Machine.aesSession dev).Respects R :=
  h.bind (h.sessionKeySource dev) fun _ => h.bind (h.readAesin _) fun _ => h.bind (h.readAesin _) fun _ =>
    h.bind (h.readAesin _) fun _ => h.bind (h.readAesinQuad _ _ _ _) fun _ => h.bind (h.readAesinQuad _ _ _ _) fun _ =>
      h.bind (h.call _) fun _ => h.bind (h.awaitAccept _) fun _ => h.bind (h.peek _) fun _ =>
        h.bind (fun s => hout s _ _) fun _ => Op.respects_onlyIf h.refl _ (h.logEntry _)

omit h in
/-- Stores one after the other, while no reset arrives: what they answer. -/
theorem runStores_apply : ∀ (steps : List (Memory → Memory)) {s : State}, s.resetIn = none →
    runStores steps s = .ok () (s.setMem (afterStores steps s.mem))
  | [], _, _ => rfl
  | f :: fs, s, hs => by
    unfold runStores
    rw [Op.bind_ok (effect_apply hs), runStores_apply fs (s := s.setMem (f s.mem)) hs]
    rfl

omit h in
/-- Popping, storing and counting one word, while no reset arrives: what it answers. -/
theorem popAndStore_apply (sink : Sink) {s : State} (hs : s.resetIn = none) :
    Machine.popAndStore sink s = .ok s.env.nextWord (counted (storedAt sink s.env.nextWord (s.setEnv s.env.afterPop))) := by
  have hw : Machine.storeWord sink s.env.nextWord (s.setEnv s.env.afterPop) =
      .ok () (storedAt sink s.env.nextWord (s.setEnv s.env.afterPop)) := by
    unfold Machine.storeWord
    rw [Op.bind_ok (peek_apply _ _), runStores_apply _ (s := s.setEnv s.env.afterPop) hs]
    rfl
  unfold Machine.popAndStore
  rw [Op.bind_ok (popFifo_apply s), Op.bind_ok hw]
  rfl

/-- The stores of a popped word. -/
theorem runStores {sink : Sink} (hp : PopRespects R sink) (cnt w : Word) : ∀ steps : List (Memory → Memory),
    (∀ f ∈ steps, f ∈ sinkSteps sink cnt w) → (Machine.runStores steps).Respects
      (fun s t => s.transferring ∧ s.transport.xcnt.val = cnt →
        R s t ∧ t.transferring ∧ t.transport.xcnt.val = cnt) := by
  have H : Steady (fun s t : State => s.transferring ∧ s.transport.xcnt.val = cnt →
      R s t ∧ t.transferring ∧ t.transport.xcnt.val = cnt) :=
    { refl := fun s w => ⟨h.refl s, w⟩
      trans := fun _ _ _ x y w => ⟨h.then' (x w).1 (y (x w).2).1, (y (x w).2).2⟩
      env := fun s v w => ⟨h.env s v, w⟩
      trace := fun s c w => ⟨h.trace s c, w⟩
      dev := fun s v w => ⟨h.dev s v, w⟩
      log := fun s e w => ⟨h.log s e, w⟩
      nearer := fun s n e w => ⟨h.nearer s n e, w⟩ }
  intro steps
  induction steps with
  | nil => exact fun _ => H.pure ()
  | cons f fs ih =>
    intro hf
    refine H.bind (H.effect fun s => ?_) fun _ => ih fun g hg => hf g (List.mem_cons_of_mem _ hg)
    rintro ⟨w1, w2⟩
    exact ⟨hp.store s w f w1 (w2 ▸ hf f List.mem_cons_self), w1, w2⟩

/-- Popping, storing and counting one word, in a transfer that has begun and is not complete. -/
theorem popAndStore {sink : Sink} (hp : PopRespects R sink) :
    (Machine.popAndStore sink).Respects (fun s t => s.transport.xcnt.val.toNat < s.transport.xlen.val.toNat →
      s.transport.xcnt.written = true → R s t ∧ t.transport.xcnt.written = true) := by
  intro s
  unfold Machine.popAndStore
  rw [Op.bind_ok (popFifo_apply s)]
  have key := h.runStores hp s.transport.xcnt.val s.env.nextWord
    (sinkSteps sink s.transport.xcnt.val s.env.nextWord) (fun _ x => x) (s.setEnv s.env.afterPop)
  have hw : Machine.storeWord sink s.env.nextWord (s.setEnv s.env.afterPop) =
      Machine.runStores (sinkSteps sink s.transport.xcnt.val s.env.nextWord) (s.setEnv s.env.afterPop) := by
    unfold Machine.storeWord
    rw [Op.bind_ok (peek_apply _ _)]
    rfl
  rw [Op.bind_apply, hw]
  cases hr : Machine.runStores (sinkSteps sink s.transport.xcnt.val s.env.nextWord) (s.setEnv s.env.afterPop) with
  | ok a t =>
    rw [hr] at key
    intro hlt hw
    have k := key ⟨⟨hw, hlt⟩, rfl⟩
    exact ⟨h.then' (h.env s _) (h.then' k.1 (hp.count t k.2.1)), rfl⟩
  | error e t =>
    rw [hr] at key
    exact ⟨fun hlt hw => ⟨h.then' (h.env s _) (key.1 ⟨⟨hw, hlt⟩, rfl⟩).1, (key.1 ⟨⟨hw, hlt⟩, rfl⟩).2.1.1⟩, key.2⟩

omit h in
theorem sampleStatus_ok {w : Wait} {n : Nat} {s u : State} {x : Sample} (e : Machine.sampleStatus w n s = .ok x u) :
    x = s.env.nextSample ∧ u = s.setEnv s.env.afterSample := by
  rcases sampleStatus_cases w n s with h' | h' <;> rw [h'] at e
  · cases e; exact ⟨rfl, rfl⟩
  · cases e

omit h in
theorem sampleStatus_error {w : Wait} {n : Nat} {s u : State} {x : Stop} (e : Machine.sampleStatus w n s = .error x u) :
    x = unsatisfied s.cfg.pollBound w ∧ u = s := by
  rcases sampleStatus_cases w n s with h' | h' <;> rw [h'] at e
  · cases e
  · cases e; exact ⟨rfl, rfl⟩

/-- A relation that says nothing of states in which no transfer has begun. -/
theorem begun : Steady (fun s t => s.transport.xcnt.written = true → R s t ∧ t.transport.xcnt.written = true) where
  refl s := fun w => ⟨h.refl s, w⟩
  trans _ _ _ x y := fun w => ⟨h.then' (x w).1 (y (x w).2).1, (y (x w).2).2⟩
  env s v := fun w => ⟨h.env s v, w⟩
  trace s c := fun w => ⟨h.trace s c, w⟩
  dev s v := fun w => ⟨h.dev s v, w⟩
  log s e := fun w => ⟨h.log s e, w⟩
  nearer s n e := fun w => ⟨h.nearer s n e, w⟩

/-- The poll loop pops, stores and counts, only while the transfer is not complete. -/
theorem pollLoop {sink : Sink} (hp : (Machine.popAndStore sink).Respects
    (fun s t => s.transport.xcnt.val.toNat < s.transport.xlen.val.toNat → R s t)) : ∀ n x idle got, (Machine.pollLoop sink n x idle got).Respects R
  | 0, _, _, _ => fun s => Keeps.waited (h.refl s)
  | n + 1, x, idle, got => by
    intro s
    simp only [Machine.pollLoop]
    split
    · exact h.refl s
    · rename_i hm
      split
      · exact Keeps.waited (h.refl s)
      · cases hs : Machine.sampleStatus .pollLoop idle s with
        | error e u => obtain ⟨rfl, rfl⟩ := sampleStatus_error hs; exact Keeps.waited (h.refl _)
        | ok y u =>
          obtain ⟨-, rfl⟩ := sampleStatus_ok hs
          have hlt : s.transport.xcnt.val.toNat < s.transport.xlen.val.toNat := by
            simp only [pollMore, Bool.not_eq_true', Bool.and_eq_false_iff, decide_eq_false_iff_not, not_or, not_not] at hm
            exact hm.2
          dsimp only
          split
          · have h1 : R s (s.setEnv s.env.afterSample) := h.env s _
            cases hv : Machine.popAndStore sink (s.setEnv s.env.afterSample) with
            | error e v =>
              have k := hp.error hv
              exact ⟨h.then' h1 (k.1 hlt), k.2⟩
            | ok w v => exact Keeps.after h.trans (h.then' h1 (hp.ok hv hlt)) (pollLoop hp n y 0 _ _)
          · exact Keeps.after h.trans (h.env s _) (pollLoop hp n y (idle + 1) got _)

theorem runPollLoop {sink : Sink} (hp : (Machine.popAndStore sink).Respects
    (fun s t => s.transport.xcnt.val.toNat < s.transport.xlen.val.toNat → R s t)) : (Machine.runPollLoop sink).Respects R :=
  h.bind (h.sampleStatus _ _) fun _ => h.bind (h.peek _) fun _ => h.pollLoop hp _ _ _ _

theorem epilogueIfShort : Machine.epilogueIfShort.Respects R := by
  intro s
  unfold Machine.epilogueIfShort
  split
  · exact (h.bind (h.awaitStatus _ _) fun _ => h.bind (h.peek _) fun _ => h.bind (h.delay _) fun _ => h.call _) s
  · exact h.refl s

theorem finalWait : Machine.finalWait.Respects R := h.awaitStatus _ _

/-- What runs once a transfer has begun. -/
theorem begin_transfer {α : Type} {f : State → State} {m : Unit → Op α} (hf : ∀ s, R s (f s))
    (hw : ∀ s, (f s).transport.xcnt.written = true)
    (hm : (m ()).Respects (fun s t => s.transport.xcnt.written = true → R s t ∧ t.transport.xcnt.written = true)) :
    (change f >>= m).Respects R := by
  intro s
  have key := hm (f s)
  rw [Op.bind_ok (change_apply _ _)]
  refine Keeps.after h.trans (hf s) ?_
  revert key
  cases m () (f s) with
  | ok a t => exact fun key => (key (hw s)).1
  | error e t => exact fun key => ⟨(key.1 (hw s)).1, key.2⟩

/-- A transfer sets its registers, then pops, stores and counts. -/
theorem transfer {sink : Sink} (hp : PopRespects R sink) (c : Quad) (pagesize blocks : Word)
    (hregs : ∀ s, R s (s.setTransport (transferRegs s.cfg c pagesize blocks))) :
    (Machine.transfer c pagesize blocks sink).Respects R :=
  have b := h.begun
  h.begin_transfer hregs (fun _ => rfl) (b.bind (b.call _) fun _ => b.bind (b.peek _) fun _ => b.bind (b.call _) fun _ =>
    b.bind (b.runPollLoop (h.popAndStore hp)) fun _ =>
      b.bind b.epilogueIfShort fun _ => b.bind b.finalWait fun _ => b.pure _)

theorem transferOp {sink : Sink} (hp : PopRespects R sink) (c : Quad) (pagesize blocks : Word)
    (hregs : ∀ s, R s (s.setTransport (transferRegs s.cfg c pagesize blocks))) :
    (Machine.transferOp c pagesize blocks sink).Respects R :=
  h.bind (h.transfer hp c pagesize blocks hregs) fun _ => h.peek _

theorem sectorRead (a : Word) (n : Nat) : (Machine.sectorRead a n).Respects R :=
  h.bind (h.peek _) fun _ => h.ntrSend _ _

theorem sendEframe (n : Nat) : (Machine.sendEframe n).Respects R := h.bind (h.peek _) fun _ => h.ntrSend _ _

theorem calibrated : Machine.calibrated.Respects R := h.bind (h.readReg _ _) fun _ => h.delay _

theorem stepSeed : Machine.stepSeed.Respects R :=
  h.bind (h.readReg _ _) fun _ => h.bind (h.peek _) fun _ => h.bind (h.peek _) fun _ => h.seedWrite _ _

theorem stepActivateKey1 (hfr : ∀ s p e, R s (s.setCommand { s.command with pframe := .holding p, eframe := .holding e }))
    (gen : BitVec 1) : (Machine.stepActivateKey1 gen).Respects R :=
  h.bind (h.actKey1 hfr gen) fun _ => h.bind (h.sendEframe _) fun _ => h.pure _

theorem stepActivateSecure
    (hfr : ∀ s p e, R s (s.setCommand { s.command with pframe := .holding p, eframe := .holding e }))
    (hcnt : ∀ s v, R s (s.setCommand { s.command with ses := { s.command.ses with cnt := v } })) :
    Machine.stepActivateSecure.Respects R :=
  h.bind (h.peek _) fun _ => h.bind (h.cmdBuild hfr hcnt _ _) fun _ => h.bind (h.sendEframe _) fun _ =>
    h.bind (h.readReg _ _) fun _ => Op.respects_onlyIf h.refl _ (h.bind h.calibrated fun _ =>
      h.bind (h.sendEframe _) fun _ => h.pure _)

theorem compareChipid
    (hid : ∀ s v b, R s (s.setSeq { s.seq with secid := .holding v, idMismatch := s.seq.idMismatch || b }))
    (got id : Word) : (Machine.compareChipid got id).Respects R :=
  h.bind (fun s => hid s _ _) fun _ => Op.respects_onlyIf h.refl _ (h.logEntry _)

theorem stepVerify
    (hfr : ∀ s p e, R s (s.setCommand { s.command with pframe := .holding p, eframe := .holding e }))
    (hcnt : ∀ s v, R s (s.setCommand { s.command with ses := { s.command.ses with cnt := v } }))
    (hid : ∀ s v b, R s (s.setSeq { s.seq with secid := .holding v, idMismatch := s.seq.idMismatch || b })) :
    Machine.stepVerify.Respects R :=
  h.bind (h.peek _) fun _ => h.bind (h.cmdBuild hfr hcnt _ _) fun _ => h.bind (h.readReg _ _) fun _ =>
    h.bind (Op.respects_onlyIf h.refl _ h.calibrated) fun _ => h.bind (h.sendEframe _) fun _ => h.compareChipid hid _ _

theorem stepDataMode
    (hfr : ∀ s p e, R s (s.setCommand { s.command with pframe := .holding p, eframe := .holding e }))
    (hcnt : ∀ s v, R s (s.setCommand { s.command with ses := { s.command.ses with cnt := v } })) :
    Machine.stepDataMode.Respects R :=
  h.bind (h.peek _) fun _ => h.bind (h.cmdBuild hfr hcnt _ _) fun _ => h.bind (h.sendEframe _) fun _ => h.pure _

theorem stepValidationRead : Machine.stepValidationRead.Respects R :=
  h.bind (h.peek _) fun _ => h.bind (h.peek _) fun _ => h.bind (h.sectorRead _ _) fun _ => h.logEntry _

theorem readGranule (hsa : ∀ s v, R s (s.setArea v)) (g off : Nat) : (Machine.readGranule g off).Respects R :=
  h.bind (h.peek _) fun _ => h.bind (h.sectorRead _ _) fun _ s => hsa s _

theorem readGranules (hsa : ∀ s v, R s (s.setArea v)) (g : Nat) : ∀ n off, (Machine.readGranules g n off).Respects R
  | 0, _ => h.pure ()
  | n + 1, off => h.bind (h.readGranule hsa g off) fun _ => readGranules hsa g n (off + g)

theorem stepBulkRead (hsa : ∀ s v, R s (s.setArea v)) : Machine.stepBulkRead.Respects R :=
  h.bind (h.peek _) fun _ => h.readGranules hsa _ _ _

theorem setup (hgeo : ∀ s b, R s (s.setSeq { s.seq with smallgeo := b }))
    (hks : ∀ s b c st, R s (scheduled b c st s))
    (hses : ∀ s v, R s (s.setCommand { s.command with ses := v, svalid := true })) (base : Table) :
    (Machine.setup base).Respects R :=
  h.bind (h.bind (h.readReg _ _) fun _ s => hgeo s _) fun _ => h.bind (h.readReg _ _) fun _ =>
    h.bind (fun s => hks s _ _ _) fun _ => h.sesSeed hses

/-- The steps of NTR.UNLOCK after its setup. -/
def afterSetup (gen : BitVec 1) : Op Unit := do
  Machine.stepActivateKey1 gen
  putPhase .keyedRandom
  Machine.stepActivateSecure
  putPhase .secureKeyed
  Machine.stepSeed
  Machine.stepVerify
  Machine.stepDataMode
  putPhase .dataMode
  putPhase .reading
  Machine.stepValidationRead
  Machine.stepBulkRead

omit h in
theorem ntrUnlock_eq (gen : BitVec 1) (base : Table) :
    Machine.ntrUnlock gen base = (Machine.setup base >>= fun _ => afterSetup gen) := rfl

theorem afterSetup_respects
    (hfr : ∀ s p e, R s (s.setCommand { s.command with pframe := .holding p, eframe := .holding e }))
    (hcnt : ∀ s v, R s (s.setCommand { s.command with ses := { s.command.ses with cnt := v } }))
    (hid : ∀ s v b, R s (s.setSeq { s.seq with secid := .holding v, idMismatch := s.seq.idMismatch || b }))
    (hph : ∀ s p, R s (s.setSeq { s.seq with phase := p })) (hsa : ∀ s v, R s (s.setArea v)) (gen : BitVec 1) :
    (afterSetup gen).Respects R :=
  h.bind (h.stepActivateKey1 hfr gen) fun _ => h.bind (fun s => hph s _) fun _ =>
    h.bind (h.stepActivateSecure hfr hcnt) fun _ => h.bind (fun s => hph s _) fun _ => h.bind h.stepSeed fun _ =>
      h.bind (h.stepVerify hfr hcnt hid) fun _ => h.bind (h.stepDataMode hfr hcnt) fun _ =>
        h.bind (fun s => hph s _) fun _ => h.bind (fun s => hph s _) fun _ => h.bind h.stepValidationRead fun _ =>
          h.stepBulkRead hsa

/-- NTR.UNLOCK writes U1's schedule, U2, SA and the sequencing state. -/
theorem ntrUnlock (hgeo : ∀ s b, R s (s.setSeq { s.seq with smallgeo := b }))
    (hks : ∀ s b c st, R s (scheduled b c st s))
    (hses : ∀ s v, R s (s.setCommand { s.command with ses := v, svalid := true }))
    (hfr : ∀ s p e, R s (s.setCommand { s.command with pframe := .holding p, eframe := .holding e }))
    (hcnt : ∀ s v, R s (s.setCommand { s.command with ses := { s.command.ses with cnt := v } }))
    (hid : ∀ s v b, R s (s.setSeq { s.seq with secid := .holding v, idMismatch := s.seq.idMismatch || b }))
    (hph : ∀ s p, R s (s.setSeq { s.seq with phase := p })) (hsa : ∀ s v, R s (s.setArea v)) (gen : BitVec 1)
    (base : Table) : (Machine.ntrUnlock gen base).Respects R :=
  h.bind (h.setup hgeo hks hses base) fun _ => h.afterSetup_respects hfr hcnt hid hph hsa gen

/-- A sector read driven by hand writes SA and the log. -/
theorem dataRead (hsa : ∀ s v, R s (s.setArea v)) (a : Word) : (Machine.dataRead a).Respects R := by
  refine h.bind (h.peek _) fun _ => h.bind (h.sectorRead _ _) fun v => h.bind (Op.respects_change fun s => ?_) fun _ =>
    h.bind (Op.respects_change fun s => hsa s _) fun _ => h.pure _
  unfold logAfterSector
  split
  · exact h.log s _
  · exact h.refl s

theorem secKeyIndex : Machine.secKeyIndex.Respects R := by
  refine h.bind (h.peek _) fun given => ?_
  cases given with
  | some v => exact h.pure v
  | none => exact h.bind (h.readReg _ _) fun _ => h.pure _

theorem programSeed : Machine.programSeed.Respects R :=
  h.bind h.secKeyIndex fun _ => h.bind (h.ctrSecKey _) fun _ => h.bind (h.peek _) fun _ => h.ctrSecSeed _

theorem capturedWord (got : Option Word) : (Machine.capturedWord got).Respects R := by
  intro s
  cases got
  · exact h.env s _
  · exact h.refl s

theorem xferWord (hp : PopRespects R .capture)
    (hregs : ∀ c p s, (p = 4 ∨ p = 0) → R s (s.setTransport (transferRegs s.cfg c p 1))) (c : Quad) :
    (Machine.xferWord c).Respects R :=
  h.bind (h.transfer hp c 4 1 fun s => hregs c 4 s (.inl rfl)) fun _ => h.capturedWord _

theorem confirm (hp : PopRespects R .discard)
    (hregs : ∀ c p s, (p = 4 ∨ p = 0) → R s (s.setTransport (transferRegs s.cfg c p 1))) (a b : Word) :
    (Machine.confirm a b).Respects R :=
  h.bind (h.peek _) fun _ => h.bind (h.transfer hp _ 0 1 fun s => hregs _ 0 s (.inr rfl)) fun _ => h.pure _

/-- CTR.UNLOCK writes U4, the transfer registers, RESP and ST.RESPMISMATCH. -/
theorem ctrUnlock (hp : PopRespects R .capture) (hp' : PopRespects R .discard)
    (hregs : ∀ c p s, (p = 4 ∨ p = 0) → R s (s.setTransport (transferRegs s.cfg c p 1)))
    (hout : ∀ s pt ok, R s (s.setAes { s.aes with aesout := .holding pt, macv := ok }))
    (hchal : ∀ s v, R s (s.setAes { s.aes with aesout := .holding v }))
    (hr0 : ∀ s v, R s (s.setSeq { s.seq with resp0 := v })) (hr1 : ∀ s v, R s (s.setSeq { s.seq with resp1 := v }))
    (hmis : ∀ s b, R s (s.setSeq { s.seq with respMismatch := s.seq.respMismatch || b })) (dev : BitVec 1) :
    (Machine.ctrUnlock dev).Respects R := by
  have hres : ∀ a b n, (Machine.resends a b n).Respects R := by
    intro a b n
    induction n with
    | zero => exact h.pure ()
    | succ n ih =>
      exact h.bind (h.bind (h.peek _) fun _ => h.bind (h.xferWord hp hregs _) fun _ => h.bind (fun s => hr0 s _) fun _ =>
        h.bind (h.peek _) fun _ => h.delay _) fun _ => ih
  have hcmp : ∀ a b c d, (Machine.compareAnswers a b c d).Respects R := by
    intro a b c d
    refine h.bind (h.readReg _ _) fun id => h.bind (h.readReg _ _) fun cap => ?_
    split
    · exact h.confirm hp' hregs a b
    · exact h.bind (fun s => hmis s _) fun _ => h.logEntry _
  exact h.bind (h.aesSession hout dev) fun _ => h.bind h.draw fun a => h.bind h.draw fun b =>
    h.bind h.programSeed fun _ => h.bind (fun s => hchal s _) fun _ => h.bind h.programSeed fun _ =>
      h.bind (h.bind (h.peek _) fun _ => h.bind (h.xferWord hp hregs _) fun _ => h.bind (fun s => hr0 s _) fun _ =>
        h.bind (h.peek _) fun _ => h.bind (h.xferWord hp hregs _) fun _ => h.bind (fun s => hr1 s _) fun _ =>
          h.pure _) fun _ => h.bind (hcmp _ _ _ _) fun _ => hres _ _ _

end Steady

end Sys2Proof.Machine
end

