-- ==== Sys2Proof/Laws/Transfer.lean ====
section
/-! SUPPORT. What the poll loop and a whole transfer answer, said once, with a controller that ends not busy and ready
and without a bound on polls. -/

namespace Sys2Proof.Machine

/-- Popping does not look at the coming samples. -/
theorem Env.afterPop_status (e : Env) (l : List Sample) :
    (e.withStatus l).afterPop = e.afterPop.withStatus l := by
  obtain ⟨d, st, sr, fifo, rp, rr, ac, ar, fc⟩ := e
  cases fifo <;> rfl

@[simp] theorem Env.withStatus_withStatus (e : Env) (l m : List Sample) :
    (e.withStatus l).withStatus m = e.withStatus m := rfl

@[simp] theorem Env.withStatus_status (e : Env) (l : List Sample) : (e.withStatus l).status = l := rfl

theorem Env.nextWord_status (e : Env) (l : List Sample) : (e.withStatus l).nextWord = e.nextWord := rfl

theorem Env.afterPop_statusRest (e : Env) : e.afterPop.statusRest = e.statusRest := by
  unfold Env.afterPop
  cases e.fifo <;> rfl

theorem Env.afterPop_keepsStatus (e : Env) : e.afterPop.status = e.status := by
  unfold Env.afterPop
  cases e.fifo <;> rfl

theorem Env.afterPops_succ (e : Env) (n : Nat) : e.afterPop.afterPops n = e.afterPops (n + 1) := by
  induction n with
  | zero => rfl
  | succ n ih => simp only [Env.afterPops] at ih ⊢; rw [ih]

theorem Env.fifoAt_succ (e : Env) (n : Nat) : e.afterPop.fifoAt n = e.fifoAt (n + 1) := by
  unfold Env.fifoAt
  rw [Env.afterPops_succ]

theorem Env.afterPops_status (e : Env) (l : List Sample) (n : Nat) :
    (e.withStatus l).afterPops n = (e.afterPops n).withStatus l := by
  induction n with
  | zero => rfl
  | succ n ih => simp only [Env.afterPops, ih, Env.afterPop_status]

/-- Host memory after the next `n` popped words are stored from count `c` up. -/
def memAfter (sink : Sink) : Memory → Word → Env → Nat → Memory
  | m, _, _, 0 => m
  | m, c, e, n + 1 =>
    memAfter sink (afterStores (sinkSteps sink c e.nextWord) m) (c + 4) e.afterPop n

theorem memAfter_status (sink : Sink) (e : Env) (l : List Sample) (n : Nat) : ∀ (m : Memory) (c : Word),
    memAfter sink m c (e.withStatus l) n = memAfter sink m c e n := by
  induction n generalizing e with
  | zero => intros; rfl
  | succ n ih => intro m c; simp only [memAfter, Env.nextWord_status, Env.afterPop_status, ih]

/-- Without a destination in host memory nothing is stored. -/
theorem memAfter_elsewhere {sink : Sink} (h : ∀ d, sink ≠ .memory d) (n : Nat) : ∀ (m : Memory) (c : Word) (e : Env),
    memAfter sink m c e n = m := by
  induction n with
  | zero => intros; rfl
  | succ n ih =>
    intro m c e
    cases sink with
    | memory d => exact absurd rfl (h d)
    | discard => exact ih m _ _
    | capture => exact ih m _ _

/-- The state in which the poll loop has popped `k` words, `left` being the samples left. -/
def polled (sink : Sink) (k : Nat) (left : List Sample) (s : State) : State :=
  ((s.setTransport { s.transport with
      xcnt := ⟨s.transport.xcnt.val + BitVec.ofNat 32 (4 * k), s.transport.xcnt.written || decide (k ≠ 0)⟩ }).setMem
    (memAfter sink s.mem s.transport.xcnt.val s.env k)).setEnv ((s.env.afterPops k).withStatus left)

theorem polled_zero (sink : Sink) (left : List Sample) (s : State) :
    polled sink 0 left s = s.setEnv (s.env.withStatus left) := by
  simp [polled, memAfter, Env.afterPops, State.setTransport, State.setMem, State.setEnv]

theorem polled_succ (sink : Sink) (k : Nat) (left rest : List Sample) (s : State) :
    polled sink k left (counted (storedAt sink s.env.nextWord
      ((s.setEnv (s.env.withStatus rest)).setEnv (s.env.withStatus rest).afterPop))) =
      polled sink (k + 1) left s := by
  rw [Env.afterPop_status]
  · simp only [polled, counted, storedAt, memAfter, State.setEnv, State.setTransport, State.setMem, Reg.holding,
      Env.afterPops_status, memAfter_status, Env.afterPops_succ]
    have e : s.transport.xcnt.val + 4 + BitVec.ofNat 32 (4 * k) = s.transport.xcnt.val + BitVec.ofNat 32 (4 * (k + 1)) := by
      rw [Nat.mul_succ, BitVec.ofNat_add, BitVec.add_assoc, BitVec.add_comm (BitVec.ofNat 32 (4 * k))]
      rfl
    simp only [e]
    simp

theorem polled_withStatus (sink : Sink) (k : Nat) (left ys : List Sample) (s : State) :
    polled sink k left (s.setEnv (s.env.withStatus ys)) = polled sink k left s := by
  simp only [polled, State.setEnv, State.setTransport, State.setMem, memAfter_status, Env.afterPops_status,
    Env.withStatus_withStatus]

/-- The loop pops no more words than are missing. -/
theorem pops_le (xs : List Sample) : ∀ (busy : Bool) (n : Nat), pops xs busy n ≤ n := by
  induction xs with
  | nil => intro busy n; simp only [pops]; split <;> omega
  | cons x xs ih =>
    intro busy n
    simp only [pops]
    split
    · split
      · have := ih x.busy (n - 1); omega
      · exact ih x.busy n
    · omega

theorem transferPops_le (xs : List Sample) (n : Nat) : transferPops xs n ≤ n := by
  cases xs with
  | nil => exact Nat.zero_le _
  | cons x xs => exact pops_le xs x.busy n

/-- The word the caller keeps after `k` pops: the last one, or what it had. -/
def lastPopped (e : Env) (got : Option Word) : Nat → Option Word
  | 0 => got
  | k + 1 => some (e.fifoAt k)

theorem lastPopped_succ (e : Env) (got : Option Word) (k : Nat) :
    lastPopped e.afterPop (some e.nextWord) k = lastPopped e got (k + 1) := by
  cases k with
  | zero => rfl
  | succ k => simp only [lastPopped, Env.fifoAt_succ]

theorem lastPopped_status (e : Env) (l : List Sample) (got : Option Word) (k : Nat) :
    lastPopped (e.withStatus l) got k = lastPopped e got k := by
  cases k with
  | zero => rfl
  | succ k => simp only [lastPopped, Env.fifoAt, Env.afterPops_status, Env.nextWord_status]

/-- A sample of a wait without a bound. -/
theorem sampleStatus_unbounded {s : State} (h : s.cfg.pollBound = none) (w : Wait) (n : Nat) :
    sampleStatus w n s = .ok s.env.nextSample (s.setEnv s.env.afterSample) := by
  unfold sampleStatus
  rw [if_neg (by simp [h, reachedBound])]

theorem pollMore_iff (x : Sample) (s : State) :
    pollMore x s = true ↔ x.busy = true ∧ s.transport.xcnt.val.toNat < s.transport.xlen.val.toNat := by
  simp [pollMore]

/-- A pop of the word that is still missing brings XCNT one word nearer to XLEN. -/
theorem missing_succ {cnt len : Word} (hlt : cnt.toNat < len.toNat) (hc : cnt.toNat % 4 = 0) (hl : len.toNat % 4 = 0) :
    (cnt + 4).toNat = cnt.toNat + 4 ∧ (len.toNat - (cnt + 4).toNat) / 4 = (len.toNat - cnt.toNat) / 4 - 1 := by
  have := len.isLt
  rw [BitVec.toNat_add]
  simp
  omega

/-- One sample with given samples left, and without. -/
theorem Env.sample_cons {e : Env} {y : Sample} {ys : List Sample} (h : e.status = y :: ys) :
    e.nextSample = y ∧ e.afterSample = e.withStatus ys := by
  unfold Env.nextSample Env.afterSample
  rw [h]
  exact ⟨rfl, rfl⟩

theorem Env.sample_nil {e : Env} (h : e.status = []) : e.nextSample = e.statusRest ∧ e.afterSample = e := by
  unfold Env.nextSample Env.afterSample
  rw [h]
  exact ⟨rfl, rfl⟩

theorem Env.withStatus_self {e : Env} {l : List Sample} (h : e.status = l) : e.withStatus l = e := by
  subst h
  rfl

/-- One iteration of the poll loop, without a bound, on a sample that is ready. -/
theorem pollLoop_ready (sink : Sink) (n : Nat) {x : Sample} (idle : Nat) (got : Option Word) {s : State}
    (hm : pollMore x s = true) (hst : stalled s = false) (hb : s.cfg.pollBound = none) (hr : s.env.nextSample.ready = true) :
    pollLoop sink (n + 1) x idle got s =
      (popAndStore sink >>= fun w => pollLoop sink n s.env.nextSample 0 (some w)) (s.setEnv s.env.afterSample) := by
  rw [Op.bind_apply]
  simp only [pollLoop]
  rw [if_neg (by simp [hm]), if_neg (by simp [hst]), sampleStatus_unbounded hb]
  simp only [hr, if_true]
  cases popAndStore sink (s.setEnv s.env.afterSample) <;> rfl

/-- One iteration of the poll loop, without a bound, on a sample that is not ready. -/
theorem pollLoop_idle (sink : Sink) (n : Nat) {x : Sample} (idle : Nat) (got : Option Word) {s : State}
    (hm : pollMore x s = true) (hst : stalled s = false) (hb : s.cfg.pollBound = none) (hr : s.env.nextSample.ready = false) :
    pollLoop sink (n + 1) x idle got s = pollLoop sink n s.env.nextSample (idle + 1) got (s.setEnv s.env.afterSample) := by
  simp only [pollLoop]
  rw [if_neg (by simp [hm]), if_neg (by simp [hst]), sampleStatus_unbounded hb]
  simp only [hr, Bool.false_eq_true, if_false]

/-- The end of the poll loop. -/
theorem pollLoop_done (sink : Sink) (n : Nat) {x : Sample} (idle : Nat) (got : Option Word) {s : State}
    (hm : pollMore x s = false) : pollLoop sink (n + 1) x idle got s = .ok got s := by
  simp only [pollLoop]
  rw [if_pos (by simp [hm])]

/-- The state after one word more is popped, stored and counted, the sample being taken. -/
def popped (sink : Sink) (ys : List Sample) (s : State) : State :=
  counted (storedAt sink s.env.nextWord ((s.setEnv (s.env.withStatus ys)).setEnv (s.env.withStatus ys).afterPop))

/-- The samples a loop takes of the given ones: none left, or one. -/
theorem Env.sampled (e : Env) : ∃ ys, e.afterSample = e.withStatus ys ∧
    ((e.status = [] ∧ ys = [] ∧ e.nextSample = e.statusRest) ∨ e.status = e.nextSample :: ys) := by
  cases h : e.status with
  | nil =>
    obtain ⟨h1, h2⟩ := Env.sample_nil h
    exact ⟨[], by rw [h2, Env.withStatus_self h], .inl ⟨rfl, rfl, h1⟩⟩
  | cons y ys =>
    obtain ⟨h1, h2⟩ := Env.sample_cons h
    exact ⟨ys, h2, .inr (by rw [h1])⟩

/-- One iteration of the loop on the samples of a controller that ends not busy and ready: what it takes of them, and
what that leaves to pop. -/
theorem Env.iterated {e : Env} (hrest : e.statusRest = ⟨false, true⟩) : ∃ ys, e.afterSample = e.withStatus ys ∧
    (∀ fuel, e.status.length + 2 ≤ fuel + 1 → ys.length + (if e.nextSample.busy then 2 else 1) ≤ fuel) ∧
    ∀ k, k ≠ 0 →
      pops e.status true k =
        (if e.nextSample.ready then pops ys e.nextSample.busy (k - 1) + 1 else pops ys e.nextSample.busy k) ∧
      loopLeft e.status true k =
        (if e.nextSample.ready then loopLeft ys e.nextSample.busy (k - 1) else loopLeft ys e.nextSample.busy k) := by
  obtain ⟨ys, hafter, hys⟩ := e.sampled
  refine ⟨ys, hafter, ?_, ?_⟩ <;> rcases hys with ⟨h1, rfl, h2⟩ | h1
  · rw [h1, h2, hrest]
    intro fuel hf
    simp only [List.length_nil, Bool.false_eq_true, if_false] at hf ⊢
    omega
  · rw [h1, List.length_cons]
    intro fuel hf
    split <;> omega
  · rw [h1, h2, hrest]
    intro k hk
    simp [pops, loopLeft, hk]
  · rw [h1]
    intro k hk
    simp only [pops, loopLeft, hk, ne_eq, not_false_eq_true, and_self, if_true]

/-- A loop that goes on to pop is on a busy sample, with words missing. -/
theorem pollMore_of_pops {x : Sample} {s : State} (hc : s.transport.xcnt.val.toNat % 4 = 0)
    (hl : s.transport.xlen.val.toNat % 4 = 0) :
    (x.busy = true ∧ s.transport.xcnt.val.toNat < s.transport.xlen.val.toNat ∧ pollMore x s = true ∧
      (s.transport.xlen.val.toNat - s.transport.xcnt.val.toNat) / 4 ≠ 0) ∨
    (pollMore x s = false ∧
      pops s.env.status x.busy ((s.transport.xlen.val.toNat - s.transport.xcnt.val.toNat) / 4) = 0 ∧
      loopLeft s.env.status x.busy ((s.transport.xlen.val.toNat - s.transport.xcnt.val.toNat) / 4) = s.env.status) := by
  by_cases hm : pollMore x s = true
  · obtain ⟨hb, hlt⟩ := (pollMore_iff x s).1 hm
    exact .inl ⟨hb, hlt, hm, by omega⟩
  · have hnot : ¬ (x.busy = true ∧ (s.transport.xlen.val.toNat - s.transport.xcnt.val.toNat) / 4 ≠ 0) := by
      rw [pollMore_iff] at hm
      rintro ⟨h1, h2⟩
      exact hm ⟨h1, by omega⟩
    refine .inr ⟨by simpa using hm, ?_⟩
    cases s.env.status <;> simp only [pops, loopLeft, if_neg hnot, and_self]

/-- Everything the poll loop does with a controller that ends not busy and ready: it pops `pops` words, leaves the
samples `loopLeft`, and otherwise the state `polled` describes. -/
theorem pollLoop_answers (sink : Sink) : ∀ (fuel : Nat) (x : Sample) (idle : Nat) (got : Option Word) (s : State),
    s.promptStatus → s.transport.xcnt.val.toNat % 4 = 0 → s.transport.xlen.val.toNat % 4 = 0 →
    s.transport.xcnt.val.toNat ≤ s.transport.xlen.val.toNat →
    s.env.status.length + (if x.busy then 2 else 1) ≤ fuel →
    pollLoop sink fuel x idle got s =
      .ok (lastPopped s.env got
          (pops s.env.status x.busy ((s.transport.xlen.val.toNat - s.transport.xcnt.val.toNat) / 4)))
        (polled sink (pops s.env.status x.busy ((s.transport.xlen.val.toNat - s.transport.xcnt.val.toNat) / 4))
          (loopLeft s.env.status x.busy ((s.transport.xlen.val.toNat - s.transport.xcnt.val.toNat) / 4)) s)
  | 0, x, _, _, _, _, _, _, _, hf => by split at hf <;> omega
  | fuel + 1, x, idle, got, s, hp, hc, hl, hle, hf => by
    have hstall : stalled s = false := by simp [stalled, hp.2.2]
    rcases pollMore_of_pops (x := x) hc hl with ⟨hb, hlt, hm, hn⟩ | ⟨hm, hk⟩
    · obtain ⟨hcnt, hn'⟩ := missing_succ hlt hc hl
      obtain ⟨ys, hafter, hlen, hboth⟩ := Env.iterated hp.2.2
      rw [hb] at hf ⊢
      replace hlen := hlen fuel hf
      obtain ⟨hpops, hleft⟩ := hboth _ hn
      rw [hpops, hleft]
      cases hr : s.env.nextSample.ready with
      | true =>
        simp only [if_true]
        rw [pollLoop_ready sink fuel idle got hm hstall hp.1 hr, hafter,
          Op.bind_ok (Steady.popAndStore_apply sink (s := s.setEnv (s.env.withStatus ys)) hp.2.1)]
        have key := pollLoop_answers sink fuel s.env.nextSample 0 (some s.env.nextWord) (popped sink ys s)
        have f1 : (popped sink ys s).transport =
            { s.transport with xcnt := .holding (s.transport.xcnt.val + 4) } := rfl
        have f2 : (popped sink ys s).env = Env.afterPop (s.env.withStatus ys) := rfl
        have f3 : (popped sink ys s).cfg = s.cfg := rfl
        have f4 : (s.env.withStatus ys).afterPop.status = ys := Env.afterPop_keepsStatus _
        rw [f1, f2, f4] at key
        simp only [Reg.holding, hn'] at key
        rw [hcnt] at key
        have h2 := key ⟨by rw [f3]; exact hp.1, hp.2.1, by rw [f2, Env.afterPop_statusRest]; exact hp.2.2⟩ (by omega) hl
          (by omega) hlen
        simp only [State.setEnv_env, Env.nextWord_status]
        show pollLoop sink fuel _ 0 (some s.env.nextWord) (popped sink ys s) = _
        rw [h2, popped, polled_succ, Env.afterPop_status, lastPopped_status, lastPopped_succ]
      | false =>
        simp only [Bool.false_eq_true, if_false]
        rw [pollLoop_idle sink fuel idle got hm hstall hp.1 hr, hafter]
        have h2 := pollLoop_answers sink fuel s.env.nextSample (idle + 1) got (s.setEnv (s.env.withStatus ys))
          hp hc hl hle hlen
        simp only [State.setEnv_transport, State.setEnv_env, Env.withStatus_status] at h2
        rw [h2, lastPopped_status, polled_withStatus]
    · rw [hk.1, hk.2, polled_zero, Env.withStatus_self rfl, pollLoop_done sink fuel idle got hm]
      rfl

/-- Everything the poll loop does with a controller that is busy and ready for ever, without a bound: it pops every
missing word. -/
theorem pollLoop_eager (sink : Sink) : ∀ (fuel : Nat) (x : Sample) (idle : Nat) (got : Option Word) (s : State),
    s.cfg.pollBound = none → s.resetIn = none → s.env.statusRest = ⟨true, true⟩ → s.env.status = [] → x.busy = true →
    s.transport.xcnt.val.toNat % 4 = 0 → s.transport.xlen.val.toNat % 4 = 0 →
    s.transport.xcnt.val.toNat ≤ s.transport.xlen.val.toNat →
    (s.transport.xlen.val.toNat - s.transport.xcnt.val.toNat) / 4 + 1 ≤ fuel →
    pollLoop sink fuel x idle got s =
      .ok (lastPopped s.env got ((s.transport.xlen.val.toNat - s.transport.xcnt.val.toNat) / 4))
        (polled sink ((s.transport.xlen.val.toNat - s.transport.xcnt.val.toNat) / 4) [] s)
  | 0, _, _, _, _, _, _, _, _, _, _, _, _, hf => by omega
  | fuel + 1, x, idle, got, s, hbd, hres, hrest, hst, hb, hc, hl, hle, hf => by
    by_cases hlt : s.transport.xcnt.val.toNat < s.transport.xlen.val.toNat
    · have hm : pollMore x s = true := (pollMore_iff x s).2 ⟨hb, hlt⟩
      obtain ⟨hcnt, hn'⟩ := missing_succ hlt hc hl
      obtain ⟨hn1, hn2⟩ := Env.sample_nil hst
      obtain ⟨k, hk⟩ : ∃ k, (s.transport.xlen.val.toNat - s.transport.xcnt.val.toNat) / 4 = k + 1 :=
        Nat.exists_eq_succ_of_ne_zero (by omega)
      rw [pollLoop_ready sink fuel idle got hm (by simp [stalled, hrest]) hbd (by rw [hn1, hrest]), hn2,
        Op.bind_ok (Steady.popAndStore_apply sink (s := s.setEnv s.env) hres), hn1, hrest]
      have key := pollLoop_eager sink fuel ⟨true, true⟩ 0 (some s.env.nextWord) (popped sink [] s)
      have f1 : (popped sink [] s).transport =
          { s.transport with xcnt := .holding (s.transport.xcnt.val + 4) } := rfl
      have f2 : (popped sink [] s).env = Env.afterPop (s.env.withStatus []) := rfl
      have f3 : s.env.withStatus [] = s.env := Env.withStatus_self hst
      rw [f1, f2, f3] at key
      simp only [Reg.holding, hn', hk] at key
      rw [hcnt] at key
      have h2 := key hbd hres (by rw [Env.afterPop_statusRest]; exact hrest) (by rw [Env.afterPop_keepsStatus]; exact hst)
        trivial (by omega) hl (by omega) (by omega)
      have e : popped sink [] s = counted (storedAt sink s.env.nextWord ((s.setEnv s.env).setEnv s.env.afterPop)) := by
        rw [popped, f3]
      show pollLoop sink fuel ⟨true, true⟩ 0 (some s.env.nextWord)
        (counted (storedAt sink s.env.nextWord ((s.setEnv s.env).setEnv s.env.afterPop))) = _
      rw [← e, h2, popped, polled_succ, hk, Nat.add_sub_cancel, lastPopped_succ]
    · have hz : (s.transport.xlen.val.toNat - s.transport.xcnt.val.toNat) / 4 = 0 := by omega
      rw [hz, polled_zero, Env.withStatus_self hst, pollLoop_done sink fuel idle got]
      · rfl
      · rw [Bool.eq_false_iff, ne_eq, pollMore_iff]
        exact fun h => hlt h.2

/-- The transfer registers when the loop has popped `n` words. -/
def regsAfter (cfg : Config) (c : Quad) (pagesize blocks : Word) (n : Nat) : TransportUnit :=
  { transferRegs cfg c pagesize blocks with xcnt := .holding (BitVec.ofNat 32 (4 * n)) }

/-- The calls before the poll loop (R210, R214). -/
def startCalls (cfg : Config) (c : Quad) (pagesize blocks : Word) : List EnvCall :=
  [.ctrCmdWrite c, .ctrStart (pageCodeOf cfg.pageCode (pageClass pagesize)) (minOneBlock blocks)]

/-- The state in which the poll loop starts. -/
def started (c : Quad) (pagesize blocks : Word) (s : State) : State :=
  (s.setTransport (transferRegs s.cfg c pagesize blocks)).setTrace (s.trace ++ startCalls s.cfg c pagesize blocks)

/-- What a transfer does once it has started. -/
def transferBody (sink : Sink) : Op (Option Word) := do
  let got ← runPollLoop sink
  epilogueIfShort
  finalWait
  pure got

/-- A transfer sets its registers and makes its two calls, then runs. -/
theorem transfer_starts (c : Quad) (pagesize blocks : Word) (sink : Sink) {s : State} (h : s.resetIn = none) :
    transfer c pagesize blocks sink s = transferBody sink (started c pagesize blocks s) := by
  have e : ∀ t : State, t.trace ++ startCalls s.cfg c pagesize blocks = t.trace ++ [.ctrCmdWrite c] ++
      [.ctrStart (pageCodeOf s.cfg.pageCode (pageClass pagesize)) (minOneBlock blocks)] := fun t => by simp [startCalls]
  unfold transfer transferBody
  rw [Op.bind_ok (change_apply _ _), Op.bind_ok (call_apply _ ?_), Op.bind_ok (peek_apply _ _), Op.bind_ok (call_apply _ ?_)]
  · rw [started, e]
    rfl
  · exact h
  · exact h

/-- The state after `n` words are popped and stored, `left` being the samples left and `calls` what was called. -/
def transferState (c : Quad) (pagesize blocks : Word) (sink : Sink) (n : Nat) (left : List Sample) (calls : List EnvCall)
    (s : State) : State :=
  (((s.setTransport (regsAfter s.cfg c pagesize blocks n)).setMem (memAfter sink s.mem 0 s.env n)).setEnv
    ((s.env.afterPops n).withStatus left)).setTrace (s.trace ++ calls)

/-- The state after a transfer that popped `n` words. -/
def transferred (c : Quad) (pagesize blocks : Word) (sink : Sink) (n : Nat) (left : List Sample) (s : State) : State :=
  transferState c pagesize blocks sink n left (transferCalls s.cfg c (regsAfter s.cfg c pagesize blocks n)) s

theorem transferLength_mod (pagesize blocks : Word) : transferLength pagesize blocks % 4 = 0 := by
  have h : (pageClass pagesize).toNat % 4 = 0 := by
    unfold pageClass
    split
    · rename_i h
      rcases h with rfl | rfl | rfl | rfl | rfl | rfl | rfl <;> rfl
    · rfl
  rw [transferLength, Nat.mul_mod, h, Nat.zero_mul, Nat.zero_mod]

/-- The expected length as a number, when it fits. -/
theorem started_length {c : Quad} {pagesize blocks : Word} (hlen : transferLength pagesize blocks < 2 ^ 32) (s : State) :
    (started c pagesize blocks s).transport.xlen.val.toNat = transferLength pagesize blocks := by
  show (BitVec.ofNat 32 (transferLength pagesize blocks)).toNat = _
  rw [BitVec.toNat_ofNat, Nat.mod_eq_of_lt hlen]

/-- The state the loop leaves, from the state in which it starts. -/
theorem polled_started (c : Quad) (pagesize blocks : Word) (sink : Sink) (n : Nat) (left : List Sample) (s : State) :
    polled sink n left (started c pagesize blocks s) =
      transferState c pagesize blocks sink n left (startCalls s.cfg c pagesize blocks) s := by
  simp [polled, started, transferState, regsAfter, transferRegs, Reg.holding, State.setTransport, State.setMem,
    State.setEnv, State.setTrace]

theorem Env.afterPops_statusRest (e : Env) (n : Nat) : (e.afterPops n).statusRest = e.statusRest := by
  induction n with
  | zero => rfl
  | succ n ih => simp only [Env.afterPops, Env.afterPop_statusRest, ih]

/-- Whether the loop ended short. -/
theorem short_transferState {c : Quad} {pagesize blocks : Word} {sink : Sink} {n : Nat} {left : List Sample}
    {calls : List EnvCall} {s : State} (hlen : transferLength pagesize blocks < 2 ^ 32)
    (hn : n ≤ transferLength pagesize blocks / 4) :
    short (transferState c pagesize blocks sink n left calls s) = decide (4 * n < transferLength pagesize blocks) := by
  show decide ((BitVec.ofNat 32 (4 * n)).toNat < (BitVec.ofNat 32 (transferLength pagesize blocks)).toNat) = _
  rw [BitVec.toNat_ofNat, BitVec.toNat_ofNat, Nat.mod_eq_of_lt hlen, Nat.mod_eq_of_lt (by omega)]

/-- Without a bound, the samples a wait leaves. -/
theorem pollUntil_left (goal : Sample → Bool) (rest : Sample) : ∀ (count : Nat) (xs : List Sample),
    (pollUntil none goal rest count xs).2 = waitLeft goal xs
  | _, [] => rfl
  | count, x :: xs => by
    simp only [pollUntil, reachedBound, waitLeft, Bool.false_eq_true, if_false]
    split
    · rfl
    · exact pollUntil_left goal rest (count + 1) xs

theorem waitLeft_suffix (goal : Sample → Bool) : ∀ xs : List Sample, waitLeft goal xs <:+ xs
  | [] => List.suffix_refl _
  | x :: xs => by
    simp only [waitLeft]
    split
    · exact List.suffix_cons _ _
    · exact (waitLeft_suffix goal xs).trans (List.suffix_cons _ _)

theorem loopLeft_suffix : ∀ (xs : List Sample) (busy : Bool) (n : Nat), loopLeft xs busy n <:+ xs
  | [], _, _ => List.suffix_refl _
  | x :: xs, busy, n => by
    simp only [loopLeft]
    split
    · split
      · exact (loopLeft_suffix xs _ _).trans (List.suffix_cons _ _)
      · exact (loopLeft_suffix xs _ _).trans (List.suffix_cons _ _)
    · exact List.suffix_refl _

/-- The samples a transfer leaves are the last of the given ones. -/
theorem transferLeft_suffix (xs : List Sample) (n : Nat) : transferLeft xs n <:+ xs := by
  have h : polledLeft xs n <:+ xs := by
    cases xs with
    | nil => exact List.suffix_refl _
    | cons x xs => exact (loopLeft_suffix xs x.busy n).trans (List.suffix_cons _ _)
  unfold transferLeft
  refine (waitLeft_suffix _ _).trans ?_
  split
  · exact (waitLeft_suffix _ _).trans h
  · exact h

/-- The loop of a transfer, with its sample before: what it pops and what it leaves. -/
theorem runPollLoop_answers (c : Quad) (pagesize blocks : Word) (sink : Sink) (s : State) (hp : s.promptStatus)
    (hlen : transferLength pagesize blocks < 2 ^ 32) :
    runPollLoop sink (started c pagesize blocks s) =
      .ok (lastPopped s.env none (transferPops s.env.status (transferLength pagesize blocks / 4)))
        (transferState c pagesize blocks sink (transferPops s.env.status (transferLength pagesize blocks / 4))
          (polledLeft s.env.status (transferLength pagesize blocks / 4)) (startCalls s.cfg c pagesize blocks) s) := by
  have hmod := transferLength_mod pagesize blocks
  have hxlen := started_length (c := c) hlen s
  obtain ⟨ys, hafter, hys⟩ := s.env.sampled
  have hpops : transferPops s.env.status (transferLength pagesize blocks / 4) =
        pops ys s.env.nextSample.busy (transferLength pagesize blocks / 4) ∧
      polledLeft s.env.status (transferLength pagesize blocks / 4) =
        loopLeft ys s.env.nextSample.busy (transferLength pagesize blocks / 4) := by
    rcases hys with ⟨h1, rfl, h2⟩ | h1
    · rw [h1, h2, hp.2.2]
      simp [transferPops, pops, polledLeft, loopLeft]
    · rw [h1]
      exact ⟨rfl, rfl⟩
  rw [hpops.1, hpops.2, ← polled_started]
  have key := pollLoop_answers sink (pollFuel ((started c pagesize blocks s).setEnv (s.env.withStatus ys)))
    s.env.nextSample 1 none ((started c pagesize blocks s).setEnv (s.env.withStatus ys)) hp rfl
    (by rw [State.setEnv_transport, hxlen]; exact hmod) (Nat.zero_le _)
    (by simp only [pollFuel, State.setEnv_env, Env.withStatus_status]; split <;> omega)
  have h0 : (started c pagesize blocks s).transport.xcnt.val.toNat = 0 := rfl
  simp only [State.setEnv_transport, State.setEnv_env, Env.withStatus_status, hxlen, h0, Nat.sub_zero,
    lastPopped_status] at key
  have hs : sampleStatus .pollLoop 0 (started c pagesize blocks s) =
      .ok s.env.nextSample ((started c pagesize blocks s).setEnv (s.env.withStatus ys)) := by
    rw [sampleStatus_unbounded (by exact hp.1)]
    show EStateM.Result.ok s.env.nextSample ((started c pagesize blocks s).setEnv s.env.afterSample) = _
    rw [hafter]
  unfold runPollLoop
  rw [Op.bind_ok hs, Op.bind_ok (peek_apply _ _), key]
  congr 1
  exact polled_withStatus sink _ _ ys (started c pagesize blocks s)

/-- Everything a transfer does with a controller that ends not busy and ready. -/
theorem transfer_answers (c : Quad) (pagesize blocks : Word) (sink : Sink) (s : State) (hp : s.promptStatus)
    (hlen : transferLength pagesize blocks < 2 ^ 32) :
    transfer c pagesize blocks sink s =
      .ok (lastPopped s.env none (transferPops s.env.status (transferLength pagesize blocks / 4)))
        (transferred c pagesize blocks sink (transferPops s.env.status (transferLength pagesize blocks / 4))
          (transferLeft s.env.status (transferLength pagesize blocks / 4)) s) := by
  have hloop := runPollLoop_answers c pagesize blocks sink s hp hlen
  have hle := transferPops_le s.env.status (transferLength pagesize blocks / 4)
  have hmod := transferLength_mod pagesize blocks
  unfold transferLeft
  generalize polledLeft s.env.status (transferLength pagesize blocks / 4) = l1 at hloop ⊢
  generalize transferPops s.env.status (transferLength pagesize blocks / 4) = n at hloop hle ⊢
  have hiff : (n < transferLength pagesize blocks / 4) = (4 * n < transferLength pagesize blocks) :=
    propext (by omega)
  have hcalls : transferCalls s.cfg c (regsAfter s.cfg c pagesize blocks n) = startCalls s.cfg c pagesize blocks ++
      (if 4 * n < transferLength pagesize blocks then [.delay s.cfg.settleDelay, .ctrDeactivate] else []) := by
    have e1 : (BitVec.ofNat 32 (4 * n)).toNat = 4 * n := by rw [BitVec.toNat_ofNat, Nat.mod_eq_of_lt (by omega)]
    have e2 : (BitVec.ofNat 32 (transferLength pagesize blocks)).toNat = transferLength pagesize blocks := by
      rw [BitVec.toNat_ofNat, Nat.mod_eq_of_lt hlen]
    simp only [transferCalls, startCalls, regsAfter, transferRegs, Reg.holding, e1, e2]
  rw [transfer_starts c pagesize blocks sink hp.2.1]
  unfold transferBody
  rw [Op.bind_ok hloop]
  set v := transferState c pagesize blocks sink n l1 (startCalls s.cfg c pagesize blocks) s with hv
  have vrest : v.env.statusRest = ⟨false, true⟩ := (Env.afterPops_statusRest s.env n).trans hp.2.2
  have vstat : v.env.status = l1 := rfl
  have hep : epilogueIfShort v = .ok () (transferState c pagesize blocks sink n
      (if 4 * n < transferLength pagesize blocks then waitLeft (·.ready) l1 else l1)
      (transferCalls s.cfg c (regsAfter s.cfg c pagesize blocks n)) s) := by
    unfold epilogueIfShort
    rw [hv, short_transferState hlen hle, ← hv, hcalls]
    by_cases hlt : 4 * n < transferLength pagesize blocks
    · rw [if_pos (by simpa using hlt), if_pos hlt, if_pos hlt]
      unfold shortReadEpilogue
      rw [Op.bind_ok (awaitStatus_met .epilogue (goal := (·.ready)) (s := v) hp.1 (by rw [vrest])),
        Op.bind_ok (peek_apply _ _), Op.bind_ok (delay_apply _ ?_), call_apply _ ?_]
      · rw [pollUntil_left, vstat]
        simp [hv, transferState, State.setTransport, State.setMem, State.setEnv, State.setTrace]
      · exact hp.2.1
      · exact hp.2.1
    · rw [if_neg (by simpa using hlt), if_neg hlt, if_neg hlt, List.append_nil]
  rw [Op.bind_ok hep]
  unfold finalWait
  rw [Op.bind_ok (awaitStatus_met .finalWait (goal := fun x => !x.busy) ?_ ?_), pollUntil_left]
  · simp only [hiff]
    rfl
  · exact hp.1
  · show (!(s.env.afterPops n).statusRest.busy) = true
    rw [Env.afterPops_statusRest, hp.2.2]
    rfl

end Sys2Proof.Machine
end

