-- ==== Sys2Proof/Laws/Cut.lean ====
section
/-! SUPPORT. What the poll loop leaves when the external reset arrives between two of its stores (70_reset_and_hazards.md
R310, log 25), at a word-aligned destination: one store a word. -/

namespace Sys2Proof.Machine

/-- At a word-aligned destination the store comes first, or the reset does. -/
theorem storeWord_nearing {dest : Word} (ha : dest.extractLsb' 0 2 = 0) (w : Word) (s : State) :
    (∀ k, s.resetIn = some (k + 1) →
      storeWord (.memory dest) w s = .ok () (storedAt (.memory dest) w (s.setResetIn (some k)))) ∧
    (s.resetIn = some 0 → storeWord (.memory dest) w s = .error .reset s) := by
  have steps : ∀ c, sinkSteps (.memory dest) c w = [fun m => memWriteWord m (dest + c) w] := fun c => by
    simp [sinkSteps, storeSteps, ha]
  have e : storeWord (.memory dest) w s =
      effect (fun t => t.setMem (memWriteWord t.mem (dest + s.transport.xcnt.val) w)) s := by
    unfold storeWord
    rw [Op.bind_ok (peek_apply _ _), steps]
    simp only [runStores]
    rw [Op.bind_apply]
    cases effect (fun t => t.setMem (memWriteWord t.mem (dest + s.transport.xcnt.val) w)) s <;> rfl
  refine ⟨fun k h => ?_, fun h => ?_⟩
  · rw [e]
    simp only [effect, h, storedAt, steps]
    rfl
  · rw [e]
    simp only [effect, h]

/-- The state after one word more is popped, stored by one store and counted, the sample being taken and the reset one
store nearer. -/
def poppedNearer (dest : Word) (k : Nat) (ys : List Sample) (s : State) : State :=
  popped (.memory dest) ys (s.setResetIn (some k))

@[simp] theorem poppedNearer_cfg (dest : Word) (k : Nat) (ys : List Sample) (s : State) :
    (poppedNearer dest k ys s).cfg = s.cfg := rfl
@[simp] theorem poppedNearer_dev (dest : Word) (k : Nat) (ys : List Sample) (s : State) :
    (poppedNearer dest k ys s).dev = s.dev := rfl
@[simp] theorem poppedNearer_trace (dest : Word) (k : Nat) (ys : List Sample) (s : State) :
    (poppedNearer dest k ys s).trace = s.trace := rfl
@[simp] theorem poppedNearer_env (dest : Word) (k : Nat) (ys : List Sample) (s : State) :
    (poppedNearer dest k ys s).env = (s.env.withStatus ys).afterPop := rfl
@[simp] theorem poppedNearer_resetIn (dest : Word) (k : Nat) (ys : List Sample) (s : State) :
    (poppedNearer dest k ys s).resetIn = some k := rfl
@[simp] theorem poppedNearer_mem (dest : Word) (k : Nat) (ys : List Sample) (s : State) :
    (poppedNearer dest k ys s).mem =
      afterStores (sinkSteps (.memory dest) s.transport.xcnt.val s.env.nextWord) s.mem := rfl
@[simp] theorem poppedNearer_xcnt (dest : Word) (k : Nat) (ys : List Sample) (s : State) :
    (poppedNearer dest k ys s).transport.xcnt.val = s.transport.xcnt.val + 4 := rfl
@[simp] theorem poppedNearer_xlen (dest : Word) (k : Nat) (ys : List Sample) (s : State) :
    (poppedNearer dest k ys s).transport.xlen = s.transport.xlen := rfl

/-- A pop with the reset on its way. -/
theorem popAndStore_nearing {dest : Word} (ha : dest.extractLsb' 0 2 = 0) (ys : List Sample) (s : State) :
    (∀ k, s.resetIn = some (k + 1) → popAndStore (.memory dest) (s.setEnv (s.env.withStatus ys)) =
      .ok s.env.nextWord (poppedNearer dest k ys s)) ∧
    (s.resetIn = some 0 → popAndStore (.memory dest) (s.setEnv (s.env.withStatus ys)) =
      .error .reset (s.setEnv (s.env.withStatus ys).afterPop)) := by
  have store := storeWord_nearing ha s.env.nextWord (s.setEnv (s.env.withStatus ys).afterPop)
  have hpop : popFifo (s.setEnv (s.env.withStatus ys)) = .ok s.env.nextWord (s.setEnv (s.env.withStatus ys).afterPop) := by
    rw [popFifo_apply, State.setEnv_env, Env.nextWord_status]
    rfl
  unfold popAndStore
  refine ⟨fun k h => ?_, fun h => ?_⟩
  · rw [Op.bind_ok hpop, Op.bind_ok (store.1 k h)]
    rfl
  · rw [Op.bind_ok hpop, Op.bind_error (store.2 h)]

/-- What a cut poll loop leaves: `k` words stored, and all else that outlasts the reset as before. -/
def CutAt (dest : Word) (k : Nat) (s t : State) : Prop :=
  t.mem = memAfter (.memory dest) s.mem s.transport.xcnt.val s.env k ∧ t.cfg = s.cfg ∧ t.dev = s.dev ∧ t.trace = s.trace

/-- A cut one store later, seen from before the store. -/
theorem CutAt.succ {dest : Word} {k : Nat} {ys : List Sample} {s t : State} (h : CutAt dest k (poppedNearer dest k ys s) t) :
    CutAt dest (k + 1) s t := by
  obtain ⟨h1, h2, h3, h4⟩ := h
  refine ⟨?_, h2, h3, h4⟩
  rw [h1, poppedNearer_mem, poppedNearer_xcnt, poppedNearer_env, Env.afterPop_status, memAfter_status]
  rfl

/-- A poll loop that would pop more than `k` words, the reset coming after `k` stores: it ends there. -/
theorem pollLoop_cut {dest : Word} (ha : dest.extractLsb' 0 2 = 0) :
    ∀ (fuel : Nat) (x : Sample) (idle : Nat) (got : Option Word) (s : State) (k : Nat),
    s.cfg.pollBound = none → s.env.statusRest = ⟨false, true⟩ → s.resetIn = some k →
    s.transport.xcnt.val.toNat % 4 = 0 → s.transport.xlen.val.toNat % 4 = 0 →
    s.env.status.length + (if x.busy then 2 else 1) ≤ fuel →
    k < pops s.env.status x.busy ((s.transport.xlen.val.toNat - s.transport.xcnt.val.toNat) / 4) →
    ∃ t, pollLoop (.memory dest) fuel x idle got s = .error .reset t ∧ CutAt dest k s t
  | 0, x, _, _, _, _, _, _, _, _, _, hf, _ => by split at hf <;> omega
  | fuel + 1, x, idle, got, s, k, hb, hrest, hres, hc, hl, hf, hk => by
    have hstall : stalled s = false := by simp [stalled, hrest]
    rcases pollMore_of_pops (x := x) hc hl with ⟨hbusy, hlt, hmore, hn⟩ | ⟨-, h0, -⟩
    · obtain ⟨hcnt, hn'⟩ := missing_succ hlt hc hl
      obtain ⟨ys, hafter, hlen, hboth⟩ := Env.iterated hrest
      rw [hbusy] at hf hk
      replace hlen := hlen fuel hf
      rw [(hboth _ hn).1] at hk
      cases hr : s.env.nextSample.ready with
      | true =>
        rw [hr, if_pos rfl] at hk
        rw [pollLoop_ready (.memory dest) fuel idle got hmore hstall hb hr, hafter]
        obtain ⟨hstored, hcut⟩ := popAndStore_nearing ha ys s
        cases k with
        | zero => exact ⟨_, Op.bind_error (hcut hres), rfl, rfl, rfl, rfl⟩
        | succ k =>
          rw [Op.bind_ok (hstored k hres)]
          have key := pollLoop_cut ha fuel s.env.nextSample 0 (some s.env.nextWord) (poppedNearer dest k ys s) k
          rw [poppedNearer_cfg, poppedNearer_env, poppedNearer_resetIn, poppedNearer_xcnt, poppedNearer_xlen,
            Env.afterPop_statusRest, Env.afterPop_keepsStatus, Env.withStatus_status, hn', hcnt] at key
          obtain ⟨t, h1, h2⟩ := key hb hrest rfl (by omega) hl hlen (by omega)
          exact ⟨t, h1, h2.succ⟩
      | false =>
        rw [hr, if_neg Bool.false_ne_true] at hk
        rw [pollLoop_idle (.memory dest) fuel idle got hmore hstall hb hr, hafter]
        obtain ⟨t, h1, h2, h3⟩ := pollLoop_cut ha fuel s.env.nextSample (idle + 1) got (s.setEnv (s.env.withStatus ys)) k hb
          hrest hres hc hl hlen hk
        exact ⟨t, h1, h2.trans (memAfter_status ..), h3⟩
    · omega

end Sys2Proof.Machine
end

