-- ==== Sys2Proof/Laws/Decode.lean ====
section
/-! SUPPORT. How the decoder reads the bit strings the encoder writes: by the top eight bits, at the one width. -/

namespace Sys2Proof

/-- A field above the low part of a concatenation is one of its high part. -/
theorem field_append_high {n m : Nat} (a : BitVec n) (b : BitVec m) {lo len : Nat} (h : m ≤ lo) :
    field (a ++ b) lo len = field a (lo - m) len := by
  apply BitVec.eq_of_getLsbD_eq
  intro i hi
  simp only [field, BitVec.getLsbD_extractLsb', BitVec.getLsbD_append]
  rw [if_neg (by omega), show lo + i - m = lo - m + i by omega]

/-- A field inside the low part of a concatenation is one of it. -/
theorem field_append_low {n m : Nat} (a : BitVec n) (b : BitVec m) {lo len : Nat} (h : lo + len ≤ m) :
    field (a ++ b) lo len = field b lo len := by
  apply BitVec.eq_of_getLsbD_eq
  intro i hi
  simp only [field, BitVec.getLsbD_extractLsb', BitVec.getLsbD_append]
  rw [if_pos (by omega)]

/-- The whole of a bit string is a field of it. -/
theorem field_whole {n : Nat} (a : BitVec n) : field a 0 n = a := by
  apply BitVec.eq_of_getLsbD_eq
  intro i hi
  simp [field, hi]

/-- A request of at least eight bits is decoded by its top eight bits. -/
theorem decodeRequest_asRequest {n : Nat} (v : BitVec n) (h : 8 ≤ n) :
    decodeRequest (asRequest v) = decodeOp (field v (n - 8) 8).toNat (asRequest v) := by
  have hv := v.isLt
  have ho : (field v (n - 8) 8).toNat = v.toNat >>> (n - 8) := by
    rw [field, BitVec.extractLsb'_toNat]
    apply Nat.mod_eq_of_lt
    rw [Nat.shiftRight_eq_div_pow]
    apply Nat.div_lt_of_lt_mul
    rwa [← pow_add, show n - 8 + 8 = n by omega]
  have hn : ¬ (2 ^ (asRequest v).nbits ≤ (asRequest v).bits ∨ (asRequest v).nbits < 8) := by
    simp only [asRequest]; omega
  rw [ho]
  unfold decodeRequest
  rw [if_neg hn]
  rfl

/-- A row that is no frame is decoded as a request. -/
theorem decode_asRequest {n : Nat} (v : BitVec n) (h : 8 ≤ n) (h' : n ≠ 64) :
    decode (asRequest v) = decodeOp (field v (n - 8) 8).toNat (asRequest v) := by
  rw [← decodeRequest_asRequest v h]
  unfold decode
  rw [if_neg (show ¬ (asRequest v).nbits = 64 from h')]

/-- A 64-bit row is decoded as a frame. -/
theorem decode_asFrame (v : Frame) : decode (asRequest v) = decodeFrame v := by
  have hv := v.isLt
  unfold decode
  rw [if_pos (show (asRequest v).nbits = 64 from rfl), if_neg (show ¬ 2 ^ 64 ≤ (asRequest v).bits by simpa [asRequest] using hv)]
  simp [asRequest]

/-- At its own width a request's bits are read whole. -/
theorem ofWidth_asRequest {n : Nat} (v : BitVec n) (f : BitVec n → Except Reject Instr) :
    ofWidth n (asRequest v) f = f v := by
  unfold ofWidth
  rw [if_pos (show (asRequest v).nbits = n from rfl)]
  simp [asRequest]

theorem decodeOp_k1Enc (r : Request) : decodeOp 0x10 r = ofWidth 72 r (readB · .k1Enc) := by simp [decodeOp]
theorem decodeOp_k1Dec (r : Request) : decodeOp 0x11 r = ofWidth 72 r (readB · .k1Dec) := by simp [decodeOp]
theorem decodeOp_ksInit (r : Request) : decodeOp 0x20 r = ofWidth 48 r readK := by simp [decodeOp]
theorem decodeOp_sesSeed (r : Request) : decodeOp 0x30 r = ofWidth 8 r (fun _ => .ok .sesSeed) := by simp [decodeOp]
theorem decodeOp_cmdActkey1 (r : Request) : decodeOp 0x31 r = ofWidth 16 r (readBit · .cmdActkey1) := by
  simp [decodeOp]
theorem decodeOp_cmdBuild (r : Request) : decodeOp 0x32 r = ofWidth 32 r readC := by simp [decodeOp]
theorem decodeOp_saDecrypt (r : Request) : decodeOp 0x40 r = ofWidth 48 r readS := by simp [decodeOp]
theorem decodeOp_aesSession (r : Request) : decodeOp 0x50 r = ofWidth 16 r (readBit · .aesSession) := by
  simp [decodeOp]
theorem decodeOp_ctrXfer (r : Request) : decodeOp 0x60 r = ofWidth 240 r readX := by simp [decodeOp]
theorem decodeOp_ntrUnlock (r : Request) : decodeOp 0x70 r = ofWidth 16 r (readBit · .ntrUnlock) := by
  simp [decodeOp]
theorem decodeOp_ctrUnlock (r : Request) : decodeOp 0x71 r = ofWidth 16 r (readBit · .ctrUnlock) := by
  simp [decodeOp]

end Sys2Proof
end

