-- ==== Sys2Proof/Laws/Exec.lean ====
section
/-! SUPPORT. What every instruction writes, said once: its next state is related to the state before by every relation
that its writes respect. -/

namespace Sys2Proof.Machine

/-- Writing the two frame registers. -/
def FramesRespect (R : State → State → Prop) : Prop :=
  ∀ s p e, R s (s.setCommand { s.command with pframe := .holding p, eframe := .holding e })

/-- Stepping SES.CNT. -/
def CounterRespects (R : State → State → Prop) : Prop :=
  ∀ s v, R s (s.setCommand { s.command with ses := { s.command.ses with cnt := v } })

/-- Writing a schedule. -/
def ScheduleRespects (R : State → State → Prop) : Prop := ∀ s b c st, R s (scheduled b c st s)

/-- Writing SA. -/
def AreaRespects (R : State → State → Prop) : Prop := ∀ s v, R s (s.setArea v)

/-- Writing AESOUT and MACV. -/
def SessionRespects (R : State → State → Prop) : Prop :=
  ∀ s pt ok, R s (s.setAes { s.aes with aesout := .holding pt, macv := ok })

/-- The writes of one transfer. -/
def TransferRespects (R : State → State → Prop) (c : Quad) (pagesize blocks : Word) (sink : Sink) : Prop :=
  transferLength pagesize blocks < 2 ^ 32 →
    (∀ s, R s (s.setTransport (transferRegs s.cfg c pagesize blocks))) ∧ PopRespects R sink

/-- The writes of NTR.UNLOCK. -/
structure NtrRespects (R : State → State → Prop) : Prop where
  geometry : ∀ s b, R s (s.setSeq { s.seq with smallgeo := b })
  schedule : ScheduleRespects R
  session : ∀ s v, R s (s.setCommand { s.command with ses := v, svalid := true })
  frames : FramesRespect R
  counter : CounterRespects R
  chipid : ∀ s v b, R s (s.setSeq { s.seq with secid := .holding v, idMismatch := s.seq.idMismatch || b })
  phase : ∀ s p, R s (s.setSeq { s.seq with phase := p })
  area : AreaRespects R

/-- The writes of CTR.UNLOCK. -/
structure CtrRespects (R : State → State → Prop) : Prop where
  capture : PopRespects R .capture
  discard : PopRespects R .discard
  registers : ∀ c p s, (p = 4 ∨ p = 0) → R s (s.setTransport (transferRegs s.cfg c p 1))
  session : SessionRespects R
  challenge : ∀ s v, R s (s.setAes { s.aes with aesout := .holding v })
  resp0 : ∀ s v, R s (s.setSeq { s.seq with resp0 := v })
  resp1 : ∀ s v, R s (s.setSeq { s.seq with resp1 := v })
  mismatch : ∀ s b, R s (s.setSeq { s.seq with respMismatch := s.seq.respMismatch || b })

/-- The writes of an instruction to the block and to host memory. -/
def Writes (R : State → State → Prop) : Instr → Prop
  | .k1Enc _ _ | .k1Dec _ _ => ∀ s b0 b1, R s (s.setCipher { s.cipher with blk0 := b0, blk1 := b1 })
  | .ksInit _ _ _ | .ksLight _ _ | .ksFull _ _ => ScheduleRespects R
  | .sesSeed => ∀ s v, R s (s.setCommand { s.command with ses := v, svalid := true })
  | .cmdActkey1 _ | .frameActivateKey1G0 _ _ _ _ | .frameActivateKey1G1 _ _ _ _ => FramesRespect R
  | .cmdBuild _ _ | .cmdActsec | .cmdChipid | .cmdSecread _ | .cmdDatamode | .frameActivateSec _ _ _ _
  | .frameSecureChipid _ _ _ _ | .frameSecureRead _ _ _ _ | .frameDataMode _ _ _ _ =>
    FramesRespect R ∧ CounterRespects R
  | .saDecrypt _ _ => ScheduleRespects R ∧ AreaRespects R
  | .aesSession _ => SessionRespects R
  | .ctrXfer c0 c1 c2 c3 pagesize blocks dv dest => TransferRespects R ⟨c0, c1, c2, c3⟩ pagesize blocks (sinkOf dv dest)
  | .ctrSend c0 c1 c2 c3 _ => TransferRespects R ⟨c0, c1, c2, c3⟩ 0 1 .discard
  | .ntrUnlock _ => NtrRespects R
  | .ctrUnlock _ => CtrRespects R
  | .frameDataRead _ => AreaRespects R

/-- `R` is respected by everything but the writes of `Writes` while an operation runs, and gives `E` once its answer or
its event is taken; a hang happens only without a bound on polls. -/
structure Closed (R E : State → State → Prop) : Prop extends Steady R where
  answers : ∀ s t r, R s t → E s (t.setResponse r)
  hangs : ∀ s t w, R s t → t.cfg.pollBound = none → E s ((t.setResponse none).setHung (some w))

namespace Closed

variable {R E : State → State → Prop} (h : Closed R E)
include h

theorem perform {m : Op Response} (hm : m.Respects R) {s t : State} (ht : Machine.perform m s = .next t) : E s t := by
  rcases perform_cases m s with ⟨r, u, hu, he⟩ | ⟨e, u, hu, he⟩ <;> rw [he] at ht <;> cases ht
  · exact h.answers _ _ _ (hm.ok hu)
  · obtain ⟨h1, h2⟩ := hm.error hu
    cases e with
    | event ev => exact h.answers _ _ _ h1
    | hang w => exact h.hangs _ _ _ h1 (h2 w rfl)
    | reset => exact h.answers _ _ _ h1

theorem buildMatching {op : Op Response} (ho : op.Respects R) {readable : State → Bool} {built : State → Frame}
    {want : Frame} {s t : State} (e : Machine.buildMatching readable built want op s = .next t) : E s t := by
  unfold Machine.buildMatching at e
  split at e
  · cases e
  · exact h.perform ho e

theorem actKey1Matching (hw : FramesRespect R) {gen : BitVec 1} {want : Frame} {s t : State}
    (e : Machine.actKey1Matching gen want s = .next t) : E s t := h.buildMatching (h.actKey1Op hw gen) e

theorem commandMatching (hw : FramesRespect R ∧ CounterRespects R) {op : BitVec 8} {blk : BitVec 16} {want : Frame}
    {s t : State} (e : Machine.commandMatching op blk want s = .next t) : E s t :=
  h.buildMatching (h.cmdBuildOp hw.1 hw.2 op blk) e

theorem xferRequest {c : Quad} {pagesize blocks : Word} {sink : Sink} (hw : TransferRespects R c pagesize blocks sink)
    {s t : State} (e : Machine.xferRequest c pagesize blocks sink s = .next t) : E s t := by
  unfold Machine.xferRequest at e
  split at e
  · cases e
  · obtain ⟨hregs, hp⟩ := hw (by omega)
    exact h.perform (h.transferOp hp _ _ _ hregs) e

omit h in
theorem withBase {gen : BitVec 1} {s t : State} {k : Table → Host.Outcome State Fault Refusal}
    (e : Machine.withBase gen s k = .next t) (hk : ∀ base, k base = .next t → E s t) : E s t := by
  unfold Machine.withBase at e
  split at e
  · exact hk _ e
  · cases e

/-- An instruction's next state is related to the state before by every relation that its writes respect. -/
theorem exec {i : Instr} (w : Writes R i) {s t : State} (e : Machine.exec i s = .next t) : E s t := by
  have S := h.toSteady
  cases i with
  | k1Enc w0 w1 => exact h.perform (S.passOp w _ _ _) e
  | k1Dec w0 w1 => exact h.perform (S.passOp w _ _ _) e
  | ksInit code stage gen => exact withBase e fun _ e => h.perform (S.bind (Steady.ksInit w _ _ _) fun _ => S.pure _) e
  | ksLight code gen => exact withBase e fun _ e => h.perform (S.bind (Steady.ksInit w _ _ _) fun _ => S.pure _) e
  | ksFull code gen => exact withBase e fun _ e => h.perform (S.bind (Steady.ksInit w _ _ _) fun _ => S.pure _) e
  | sesSeed => exact h.perform (S.bind (S.sesSeed w) fun _ => S.pure _) e
  | cmdActkey1 gen => exact h.perform (S.actKey1Op w _) e
  | cmdBuild op blk => exact h.perform (S.cmdBuildOp w.1 w.2 _ _) e
  | cmdActsec => exact h.perform (S.cmdBuildOp w.1 w.2 _ _) e
  | cmdChipid => exact h.perform (S.cmdBuildOp w.1 w.2 _ _) e
  | cmdSecread blk => exact h.perform (S.cmdBuildOp w.1 w.2 _ _) e
  | cmdDatamode => exact h.perform (S.cmdBuildOp w.1 w.2 _ _) e
  | saDecrypt code gen =>
    simp only [Machine.exec, execSaDecrypt] at e
    split at e
    · exact withBase e fun _ e => h.perform (S.bind (S.saDecrypt w.2 w.1 _ _) fun _ => S.pure _) e
    · cases e
  | aesSession dev => exact h.perform (S.bind (S.aesSession w _) fun _ => S.peek _) e
  | ctrXfer c0 c1 c2 c3 pagesize blocks dv dest => exact h.xferRequest w e
  | ctrSend c0 c1 c2 c3 dest => exact h.xferRequest (sink := sinkOf 0 dest) w e
  | ntrUnlock gen =>
    simp only [Machine.exec, execNtrUnlock] at e
    split at e
    · exact withBase e fun _ e => h.perform (S.bind (S.ntrUnlock w.geometry w.schedule w.session w.frames w.counter
        w.chipid w.phase w.area _ _) fun _ => S.pure _) e
    · cases e
  | ctrUnlock dev =>
    exact h.perform (S.bind (S.ctrUnlock w.capture w.discard w.registers w.session w.challenge w.resp0 w.resp1 w.mismatch
      _) fun _ => S.pure _) e
  | frameActivateKey1G0 p q c f => exact h.actKey1Matching w e
  | frameActivateKey1G1 p q c f => exact h.actKey1Matching w e
  | frameActivateSec b p q c => exact h.commandMatching w e
  | frameSecureChipid b p q c => exact h.commandMatching w e
  | frameSecureRead b p q c => exact h.commandMatching w e
  | frameDataMode b p q c => exact h.commandMatching w e
  | frameDataRead a =>
    simp only [Machine.exec, execFrameDataRead] at e
    split at e
    · exact h.perform (S.dataRead w _) e
    · cases e

end Closed

/-- The frame of a field that no call, log entry, response or hang touches. -/
theorem Closed.of_eq {α : Type} {p : State → α} (env : ∀ s v, p (s.setEnv v) = p s) (trace : ∀ s v, p (s.setTrace v) = p s)
    (dev : ∀ s v, p (s.setDev v) = p s) (log : ∀ s v, p (s.setLog v) = p s)
    (response : ∀ s v, p (s.setResponse v) = p s) (hung : ∀ s v, p (s.setHung v) = p s)
    (nearer : ∀ s v, p (s.setResetIn v) = p s) :
    Closed (fun s t => p t = p s) (fun s t => p t = p s) where
  refl _ := rfl
  trans _ _ _ x y := y.trans x
  env := env
  trace s _ := trace s _
  dev := dev
  log s _ := log s _
  nearer s _ _ := nearer s _
  answers _ _ _ x := (response _ _).trans x
  hangs _ _ _ x _ := ((hung _ _).trans (response _ _)).trans x

/-- An invariant that no call, log entry, response or hang touches. -/
theorem Closed.of_imp {p : State → Prop} (env : ∀ s v, p s → p (s.setEnv v)) (trace : ∀ s v, p s → p (s.setTrace v))
    (dev : ∀ s v, p s → p (s.setDev v)) (log : ∀ s v, p s → p (s.setLog v))
    (response : ∀ s v, p s → p (s.setResponse v)) (hung : ∀ s v, p s → p (s.setHung v))
    (nearer : ∀ s n, s.resetIn = some (n + 1) → p s → p (s.setResetIn (some n))) :
    Closed (fun s t => p s → p t) (fun s t => p s → p t) where
  refl _ x := x
  trans _ _ _ x y z := y (x z)
  env := env
  trace s _ := trace s _
  dev := dev
  log s _ := log s _
  nearer s n e x := nearer s n e x
  answers _ _ _ x z := response _ _ (x z)
  hangs _ _ _ x _ z := hung _ _ (response _ _ (x z))

end Sys2Proof.Machine
end

