-- ==== Sys2Proof/Laws/Memory.lean ====
section
/-! SUPPORT. Host memory: what a read gives after a write, and that every memory operation keeps the canonical form. -/

namespace Sys2Proof.Machine

/-- Read after one write: the value at its address, the old byte elsewhere. -/
theorem Memory.read_write (m : Memory) (a : Nat) (v : Byte) (b : Nat) :
    Memory.read (Memory.write m a v) b = if a = b then some v else Memory.read m b := by
  induction m with
  | nil => simp only [Memory.write, Memory.read, eq_comm]
  | cons c m ih =>
    obtain ⟨x, w⟩ := c
    simp only [Memory.write]
    split
    · simp only [Memory.read, eq_comm]
    · split
      · subst_vars
        simp only [Memory.read]
        by_cases h : x = b
        · simp [h]
        · simp [h, Ne.symm h]
      · simp only [Memory.read, ih]
        by_cases h : b = x
        · subst h; simp; omega
        · simp [h]

theorem Memory.read_write_same (m : Memory) (a : Nat) (v : Byte) : Memory.read (Memory.write m a v) a = some v := by
  simp [Memory.read_write]

theorem Memory.read_write_other (m : Memory) {a b : Nat} (v : Byte) (h : a ≠ b) :
    Memory.read (Memory.write m a v) b = Memory.read m b := by
  simp [Memory.read_write, h]

theorem Memory.risingFrom_cons (lo a : Nat) (v : Byte) (m : Memory) :
    Memory.risingFrom lo ((a, v) :: m) = true ↔ lo ≤ a ∧ a < 2 ^ 32 ∧ Memory.risingFrom (a + 1) m = true := by
  simp [Memory.risingFrom, and_assoc]

/-- A rising list rises from every lower bound too. -/
theorem Memory.risingFrom_mono {lo lo' : Nat} (h : lo' ≤ lo) : ∀ {m : Memory}, Memory.risingFrom lo m = true →
    Memory.risingFrom lo' m = true
  | [], _ => rfl
  | (a, v) :: m, hm => by
    rw [Memory.risingFrom_cons] at hm ⊢
    exact ⟨le_trans h hm.1, hm.2⟩

/-- A write inside the address space keeps the list rising. -/
theorem Memory.risingFrom_write {a : Nat} (ha : a < 2 ^ 32) (v : Byte) : ∀ {lo : Nat} {m : Memory}, lo ≤ a →
    Memory.risingFrom lo m = true → Memory.risingFrom lo (Memory.write m a v) = true
  | lo, [], hlo, _ => by simp [Memory.write, Memory.risingFrom, hlo]; omega
  | lo, (b, w) :: m, hlo, hm => by
    obtain ⟨h1, h2, h3⟩ := (Memory.risingFrom_cons ..).1 hm
    simp only [Memory.write]
    split
    · rw [Memory.risingFrom_cons, Memory.risingFrom_cons]
      exact ⟨hlo, ha, by omega, h2, h3⟩
    · split
      · subst_vars; rw [Memory.risingFrom_cons]; exact ⟨hlo, ha, h3⟩
      · rw [Memory.risingFrom_cons]
        exact ⟨h1, h2, Memory.risingFrom_write ha v (by omega) h3⟩

/-- One write inside the address space keeps the canonical form. -/
theorem Memory.wf_write {m : Memory} (h : Memory.wf m = true) {a : Nat} (ha : a < 2 ^ 32) (v : Byte) :
    Memory.wf (Memory.write m a v) = true :=
  Memory.risingFrom_write ha v (Nat.zero_le a) h

/-- `MemWrite(a, 1, v)` keeps the canonical form. -/
theorem memWriteByte_wf {m : Memory} (h : Memory.wf m = true) (a : Word) (v : Byte) :
    Memory.wf (memWriteByte m a v) = true :=
  Memory.wf_write h a.isLt v

/-- `MemWrite(a, 4, w)` at a word-aligned address keeps the canonical form. -/
theorem memWriteWord_wf {m : Memory} (h : Memory.wf m = true) (a w : Word) (ha : a.toNat + 3 < 2 ^ 32) :
    Memory.wf (memWriteWord m a w) = true :=
  Memory.wf_write (Memory.wf_write (Memory.wf_write (Memory.wf_write h (by omega) _) (by omega) _) (by omega) _) ha _

/-- Every store of a word at a count that is a multiple of four keeps the canonical form. -/
theorem storeSteps_wf {dest cnt w : Word} (hc : cnt.toNat % 4 = 0) {f : Memory → Memory} (hf : f ∈ storeSteps dest cnt w)
    {m : Memory} (h : Memory.wf m = true) : Memory.wf (f m) = true := by
  unfold storeSteps at hf
  dsimp only at hf
  split at hf
  · rename_i hd
    obtain rfl := List.mem_singleton.1 hf
    have h2 : dest.toNat % 4 = 0 := by
      have := congrArg BitVec.toNat hd
      simpa using this
    refine memWriteWord_wf h _ _ ?_
    have := (dest + cnt).isLt
    rw [BitVec.toNat_add] at this ⊢
    omega
  · simp only [List.mem_cons, List.not_mem_nil, or_false] at hf
    rcases hf with rfl | rfl | rfl | rfl <;> exact memWriteByte_wf h _ _

end Sys2Proof.Machine
end

