-- ==== Sys2Proof/Laws/Params.lean ====
section
/-! SUPPORT. A function given by its values can be any function of a finite type (00_scope.md R11): the parameters
leave none out. -/

namespace Sys2Proof.Machine

/-- The value at a listed argument, when every entry agrees with `g`. -/
theorem lookup_graph {α β : Type} [DecidableEq α] (g : α → β) (a : α) : ∀ xs : List α, a ∈ xs →
    (xs.map fun x => (x, g x)).lookup a = some (g a)
  | x :: xs, h => by
    rw [List.map_cons, List.lookup_cons]
    by_cases hx : a = x
    · rw [hx, beq_self_eq_true]
    · rw [beq_eq_false_iff_ne.2 hx]
      exact lookup_graph g a xs ((List.mem_cons.1 h).resolve_left hx)

/-- Every function of a finite type is given by its values. -/
theorem FnValues.exists_eq {α β : Type} [Finite α] [DecidableEq α] [Inhabited β] (g : α → β) :
    ∃ f : FnValues α β, ∀ a, valueAt f a = g a := by
  obtain ⟨n, ⟨e⟩⟩ := Finite.exists_equiv_fin α
  refine ⟨⟨((List.ofFn e.symm).map fun x => (x, g x)), default⟩, fun a => ?_⟩
  unfold valueAt
  rw [lookup_graph g a _ ((List.mem_ofFn' _ _).2 ⟨e a, e.symm_apply_apply a⟩)]
  rfl

/-- The arguments of KeyScramble and CcmDecrypt are finitely many too (44_ctr_aes_session.md R193). -/
theorem quad_finite : Finite Quad :=
  Finite.of_injective (fun q => (q.w0, q.w1, q.w2, q.w3)) fun a b h => by
    cases a; cases b; simpa using h

theorem trio_finite : Finite Trio :=
  Finite.of_injective (fun q => (q.w0, q.w1, q.w2)) fun a b h => by
    cases a; cases b; simpa using h

end Sys2Proof.Machine
end

