-- ==== Sys2Proof/Laws/PerInstr.lean ====
section
/-! SUPPORT. What holds of every instruction, one lemma per constructor: the encoder writes as many bits as the
instruction's row of the opcode table has, and no bit above them. -/

namespace Sys2Proof

/-- The bits of an instruction's row of the opcode table (30_encoding.md R91, R97, R103). -/
def Instr.rowWidth : Instr → Nat
  | .k1Enc _ _ => 72
  | .k1Dec _ _ => 72
  | .ksInit _ _ _ => 48
  | .sesSeed => 8
  | .cmdActkey1 _ => 16
  | .cmdBuild _ _ => 32
  | .saDecrypt _ _ => 48
  | .aesSession _ => 16
  | .ctrXfer _ _ _ _ _ _ _ _ => 240
  | .ntrUnlock _ => 16
  | .ctrUnlock _ => 16
  | .cmdActsec => 32
  | .cmdChipid => 32
  | .cmdSecread _ => 32
  | .cmdDatamode => 32
  | .ksLight _ _ => 48
  | .ksFull _ _ => 48
  | .ctrSend _ _ _ _ _ => 240
  | .frameActivateKey1G0 _ _ _ _ => 64
  | .frameActivateKey1G1 _ _ _ _ => 64
  | .frameActivateSec _ _ _ _ => 64
  | .frameSecureChipid _ _ _ _ => 64
  | .frameSecureRead _ _ _ _ => 64
  | .frameDataMode _ _ _ _ => 64
  | .frameDataRead _ => 64

end Sys2Proof

namespace Sys2Proof.Laws.EncodeFits

/-- The encoder's words have their row's width. -/
def Statement (i : Instr) : Prop := (encode i).nbits = i.rowWidth ∧ (encode i).bits < 2 ^ i.rowWidth

theorem k1Enc (w0 w1 : Word) : Statement (.k1Enc w0 w1) := ⟨rfl, BitVec.isLt _⟩
theorem k1Dec (w0 w1 : Word) : Statement (.k1Dec w0 w1) := ⟨rfl, BitVec.isLt _⟩
theorem ksInit (code : Word) (stage gen : BitVec 1) : Statement (.ksInit code stage gen) := ⟨rfl, BitVec.isLt _⟩
theorem sesSeed : Statement (.sesSeed) := ⟨rfl, BitVec.isLt _⟩
theorem cmdActkey1 (gen : BitVec 1) : Statement (.cmdActkey1 gen) := ⟨rfl, BitVec.isLt _⟩
theorem cmdBuild (op : BitVec 8) (blk : BitVec 16) : Statement (.cmdBuild op blk) := ⟨rfl, BitVec.isLt _⟩
theorem saDecrypt (code : Word) (gen : BitVec 1) : Statement (.saDecrypt code gen) := ⟨rfl, BitVec.isLt _⟩
theorem aesSession (dev : BitVec 1) : Statement (.aesSession dev) := ⟨rfl, BitVec.isLt _⟩
theorem ctrXfer (c0 c1 c2 c3 pagesize blocks : Word) (dv : BitVec 1) (dest : Word) :
    Statement (.ctrXfer c0 c1 c2 c3 pagesize blocks dv dest) := ⟨rfl, BitVec.isLt _⟩
theorem ntrUnlock (gen : BitVec 1) : Statement (.ntrUnlock gen) := ⟨rfl, BitVec.isLt _⟩
theorem ctrUnlock (dev : BitVec 1) : Statement (.ctrUnlock dev) := ⟨rfl, BitVec.isLt _⟩
theorem cmdActsec : Statement (.cmdActsec) := ⟨rfl, BitVec.isLt _⟩
theorem cmdChipid : Statement (.cmdChipid) := ⟨rfl, BitVec.isLt _⟩
theorem cmdSecread (blk : BitVec 16) : Statement (.cmdSecread blk) := ⟨rfl, BitVec.isLt _⟩
theorem cmdDatamode : Statement (.cmdDatamode) := ⟨rfl, BitVec.isLt _⟩
theorem ksLight (code : Word) (gen : BitVec 1) : Statement (.ksLight code gen) := ⟨rfl, BitVec.isLt _⟩
theorem ksFull (code : Word) (gen : BitVec 1) : Statement (.ksFull code gen) := ⟨rfl, BitVec.isLt _⟩
theorem ctrSend (c0 c1 c2 c3 dest : Word) : Statement (.ctrSend c0 c1 c2 c3 dest) := ⟨rfl, BitVec.isLt _⟩
theorem frameActivateKey1G0 (p q : BitVec 12) (c : BitVec 20) (e : BitVec 8) :
    Statement (.frameActivateKey1G0 p q c e) := ⟨rfl, BitVec.isLt _⟩
theorem frameActivateKey1G1 (p q : BitVec 12) (c : BitVec 20) (e : BitVec 8) :
    Statement (.frameActivateKey1G1 p q c e) := ⟨rfl, BitVec.isLt _⟩
theorem frameActivateSec (b : BitVec 16) (p q : BitVec 12) (c : BitVec 20) :
    Statement (.frameActivateSec b p q c) := ⟨rfl, BitVec.isLt _⟩
theorem frameSecureChipid (b : BitVec 16) (p q : BitVec 12) (c : BitVec 20) :
    Statement (.frameSecureChipid b p q c) := ⟨rfl, BitVec.isLt _⟩
theorem frameSecureRead (b : BitVec 16) (p q : BitVec 12) (c : BitVec 20) :
    Statement (.frameSecureRead b p q c) := ⟨rfl, BitVec.isLt _⟩
theorem frameDataMode (b : BitVec 16) (p q : BitVec 12) (c : BitVec 20) :
    Statement (.frameDataMode b p q c) := ⟨rfl, BitVec.isLt _⟩
theorem frameDataRead (a : Word) :
    Statement (.frameDataRead a) := ⟨rfl, BitVec.isLt _⟩

end Sys2Proof.Laws.EncodeFits
end

