-- ==== Sys2Proof/Laws/Unlock.lean ====
section
/-! SUPPORT. What the operations of the two unlock sequences answer, said once: XferWord and its resends, the seed
programming, an `NtrSend` of the sequence. -/

namespace Sys2Proof.Machine

/-- The state after an XferWord of command `c`. -/
def afterXferWord (c : Quad) (s : State) : State :=
  ((s.setTransport (regsAfter s.cfg c 4 1 s.env.xferPops)).setEnv s.env.afterXfer).setTrace
    (s.trace ++ xferCalls s.cfg c s.env)

@[simp] theorem afterXferWord_cfg (c : Quad) (s : State) : (afterXferWord c s).cfg = s.cfg := rfl
@[simp] theorem afterXferWord_env (c : Quad) (s : State) : (afterXferWord c s).env = s.env.afterXfer := rfl
@[simp] theorem afterXferWord_trace (c : Quad) (s : State) :
    (afterXferWord c s).trace = s.trace ++ xferCalls s.cfg c s.env := rfl
@[simp] theorem afterXferWord_transport (c : Quad) (s : State) :
    (afterXferWord c s).transport = regsAfter s.cfg c 4 1 s.env.xferPops := rfl
@[simp] theorem afterXferWord_seq (c : Quad) (s : State) : (afterXferWord c s).seq = s.seq := rfl
@[simp] theorem afterXferWord_inputs (c : Quad) (s : State) : (afterXferWord c s).inputs = s.inputs := rfl
@[simp] theorem afterXferWord_mem (c : Quad) (s : State) : (afterXferWord c s).mem = s.mem := rfl

theorem Env.xferPops_le (e : Env) : e.xferPops ≤ 1 := transferPops_le e.status 1

theorem Env.afterXfer_statusRest (e : Env) : e.afterXfer.statusRest = e.statusRest := by
  unfold Env.afterXfer
  split <;> exact Env.afterPops_statusRest e _

/-- A controller that ends not busy and ready stays one. -/
theorem promptStatus_afterXferWord {c : Quad} {s : State} (h : s.promptStatus) : (afterXferWord c s).promptStatus :=
  ⟨h.1, h.2.1, (Env.afterXfer_statusRest s.env).trans h.2.2⟩

/-- Everything an XferWord does with a controller that ends not busy and ready. -/
theorem xferWord_answers (c : Quad) {s : State} (h : s.promptStatus) :
    xferWord c s = .ok s.env.xferAnswer (afterXferWord c s) := by
  have hlen : transferLength 4 1 = 4 := rfl
  have key := transfer_answers c 4 1 .capture s h (by rw [hlen]; decide)
  rw [hlen, show 4 / 4 = 1 from rfl] at key
  have hcalls : transferCalls s.cfg c (regsAfter s.cfg c 4 1 s.env.xferPops) = xferCalls s.cfg c s.env := by
    have hle := s.env.xferPops_le
    have e : (BitVec.ofNat 32 (4 * s.env.xferPops)).toNat = 4 * s.env.xferPops := by
      rw [BitVec.toNat_ofNat, Nat.mod_eq_of_lt (by omega)]
    have e1 : (regsAfter s.cfg c 4 1 s.env.xferPops).xlen.val.toNat = 4 := rfl
    simp only [transferCalls, xferCalls, e1]
    simp only [regsAfter, Reg.holding, e]
    by_cases h0 : s.env.xferPops = 0
    · rw [if_pos (by omega), if_pos h0]
      rfl
    · rw [if_neg (by omega), if_neg h0]
      rfl
  unfold xferWord
  rw [Op.bind_ok key]
  change capturedWord (lastPopped s.env none s.env.xferPops)
    (transferred c 4 1 .capture s.env.xferPops (transferLeft s.env.status 1) s) = _
  have hmem := memAfter_elsewhere (sink := .capture) nofun s.env.xferPops s.mem 0 s.env
  unfold transferred transferState afterXferWord Env.xferAnswer Env.afterXfer
  rw [hmem, hcalls]
  rcases Nat.le_one_iff_eq_zero_or_eq_one.1 s.env.xferPops_le with h0 | h0 <;> rw [h0]
  · rfl
  · rfl

/-- The resends of R266. -/
theorem resends_answers (ch0 ch1 : Word) : ∀ (n : Nat) {s : State}, s.promptStatus →
    resends ch0 ch1 (n + 1) s = .ok () (((((s.setTransport (regsAfter s.cfg (cmdChalA s.cfg ch0 ch1) 4 1
      (s.env.afterXfers n).xferPops)).setEnv (s.env.afterXfers (n + 1))).setTrace
      (s.trace ++ resendCalls s.cfg (cmdChalA s.cfg ch0 ch1) (n + 1) s.env))).setSeq
      { s.seq with resp0 := .holding (s.env.afterXfers n).xferAnswer }) := by
  have succ : ∀ (e : Env) (n : Nat), e.afterXfer.afterXfers n = e.afterXfers (n + 1) := by
    intro e n
    induction n with
    | zero => rfl
    | succ n ih => simp only [Env.afterXfers] at ih ⊢; rw [ih]
  have one : ∀ {s : State}, s.promptStatus → resend ch0 ch1 s = .ok ()
      (((afterXferWord (cmdChalA s.cfg ch0 ch1) s).setSeq { s.seq with resp0 := .holding s.env.xferAnswer }).setTrace
        (s.trace ++ (xferCalls s.cfg (cmdChalA s.cfg ch0 ch1) s.env ++ [.delay s.cfg.retryDelay]))) := by
    intro s h
    unfold resend
    rw [Op.bind_ok (peek_apply _ _), Op.bind_ok (xferWord_answers _ h)]
    unfold putResp0
    rw [Op.bind_ok (change_apply _ _), Op.bind_ok (peek_apply _ _), delay_apply _ ?_]
    · simp [State.setSeq, State.setTrace]
    · exact h.2.1
  intro n
  induction n with
  | zero =>
    intro s h
    unfold resends
    rw [Op.bind_ok (one h)]
    unfold resends
    simp [afterXferWord, resendCalls, Env.afterXfers, State.setSeq, State.setTrace, State.setEnv, State.setTransport]
  | succ n ih =>
    intro s h
    rw [resends, Op.bind_ok (one h), ih ?_]
    · simp [resendCalls, afterXferWord, succ, State.setSeq, State.setTrace, State.setEnv, State.setTransport]
    · exact promptStatus_afterXferWord (c := cmdChalA s.cfg ch0 ch1) h

/-- The oracle after a completion wait. -/
theorem Env.afterAccept_keeps (e : Env) : e.afterAccept.status = e.status ∧ e.afterAccept.statusRest = e.statusRest ∧
    e.afterAccept.acceptRest = e.acceptRest ∧ e.afterAccept.draws = e.draws ∧
    (∀ a ∈ e.afterAccept.accepts, a ∈ e.accepts) := by
  obtain ⟨d, st, sr, fifo, rp, rr, ac, ar, fc⟩ := e
  cases ac with
  | nil => exact ⟨rfl, rfl, rfl, rfl, fun _ h => h⟩
  | cons a as => exact ⟨rfl, rfl, rfl, rfl, fun _ h => List.mem_cons_of_mem _ h⟩

/-- A completion wait that ends. -/
theorem awaitAccept_answers (w : Wait) {s : State} (h : s.promptAccepts) :
    awaitAccept w s = .ok () (s.setEnv s.env.afterAccept) ∧ (s.setEnv s.env.afterAccept).promptAccepts := by
  obtain ⟨h1, h2, h3, h4⟩ := h
  obtain ⟨-, -, k3, -, k5⟩ := s.env.afterAccept_keeps
  refine ⟨?_, h1, h2, fun a ha => h3 a (k5 a ha), by rw [State.setEnv_env, k3]; exact h4⟩
  have hne : s.env.nextAccept ≠ none := by
    unfold Env.nextAccept
    cases hc : s.env.accepts with
    | nil => exact h4
    | cons a as => exact h3 a (by rw [hc]; exact List.mem_cons_self)
  obtain ⟨k, hk⟩ := Option.ne_none_iff_exists'.1 hne
  unfold awaitAccept
  rw [hk, settle_some (by exact h1)]

/-- Seed programming (R261): the index and the four seed words, each with its wait. -/
theorem programSeed_answers {s : State} (h : s.promptAccepts)
    (hcap : s.cfg.secKeyIndex = none → s.inputs.capresp.written = true) :
    programSeed s = .ok () (((s.setTrace (s.trace ++
      [.ctrSecKey (s.cfg.secKeyIndex.getD s.inputs.capresp.val.toNat), .ctrSecSeed s.aes.aesout.val])).setEnv
      (s.env.afterAccepts 2)).setDev
      { s.dev with secKey := s.cfg.secKeyIndex.getD s.inputs.capresp.val.toNat, secSeed := s.aes.aesout.val }) := by
  have hkey : secKeyIndex s = .ok (s.cfg.secKeyIndex.getD s.inputs.capresp.val.toNat) s := by
    unfold secKeyIndex
    rw [Op.bind_ok (peek_apply _ _)]
    cases hk : s.cfg.secKeyIndex with
    | some v => rfl
    | none =>
      have hc : readCapresp s = .ok s.inputs.capresp.val s := readReg_written (f := (·.inputs.capresp)) _ (hcap hk)
      change ((readCapresp >>= fun w => pure w.toNat : Op Nat) s) = _
      rw [Op.bind_ok hc]
      rfl
  have key : ∀ (v : Nat) {u : State}, u.promptAccepts → ctrSecKey v u =
      .ok () (((u.setTrace (u.trace ++ [.ctrSecKey v])).setEnv u.env.afterAccept).setDev { u.dev with secKey := v }) := by
    intro v u hu
    unfold ctrSecKey
    rw [Op.bind_ok (call_apply _ hu.2.1),
      Op.bind_ok (awaitAccept_answers _ (s := u.setTrace (u.trace ++ [EnvCall.ctrSecKey v])) hu).1, effect_apply ?_]
    · rfl
    · exact hu.2.1
  have seed : ∀ (q : Quad) {u : State}, u.promptAccepts → ctrSecSeed q u =
      .ok () (((u.setTrace (u.trace ++ [.ctrSecSeed q])).setEnv u.env.afterAccept).setDev
        { u.dev with secSeed := q }) := by
    intro q u hu
    unfold ctrSecSeed
    rw [Op.bind_ok (call_apply _ hu.2.1),
      Op.bind_ok (awaitAccept_answers _ (s := u.setTrace (u.trace ++ [EnvCall.ctrSecSeed q])) hu).1, effect_apply ?_]
    · rfl
    · exact hu.2.1
  unfold programSeed
  rw [Op.bind_ok hkey, Op.bind_ok (key _ h), Op.bind_ok (peek_apply _ _), seed _ ?_]
  · simp [State.setTrace, State.setEnv, State.setDev, Env.afterAccepts]
  · exact (awaitAccept_answers .ctrSecKey (s := s.setTrace _) h).2

/-- The oracle after an `NtrSend`. -/
theorem promptReplies_after {s : State} (h : s.promptReplies) (f : Frame) (n : Nat) :
    (afterSend f n s).promptReplies := by
  obtain ⟨h1, h2, h3, h4⟩ := h
  refine ⟨h1, h2, fun r hr => h3 r ?_, ?_⟩
  · change r ∈ s.env.afterReply.replies at hr
    unfold Env.afterReply at hr
    cases hc : s.env.replies with
    | nil => rw [hc] at hr; rw [← hc]; exact hr
    | cons x xs => rw [hc] at hr; exact List.mem_cons_of_mem _ hr
  · change s.env.afterReply.replyRest ≠ none
    unfold Env.afterReply
    cases s.env.replies <;> exact h4

/-- An `NtrSend` in an environment that answers. -/
theorem ntrSend_answers (f : Frame) (n : Nat) {s : State} (h : s.promptReplies) :
    ntrSend f n s = .ok (s.env.replyAt 0 n) (afterSend f n s) := by
  refine ntrSend_answered f n h.2.1 h.1 ?_
  unfold Env.nextReply
  cases hc : s.env.replies with
  | nil => exact h.2.2.2
  | cons r rs => exact h.2.2.1 r (by rw [hc]; exact List.mem_cons_self)

end Sys2Proof.Machine
end

