-- ==== Sys2Proof/Tests/Slice0.lean ====
section
/-! SUPPORT. Small tests: expected values are those of 95_test_vectors.md and words written out from 30_encoding.md.
Then, for every obligation with hypotheses, a state and operands that meet them. -/

namespace Sys2Proof.Tests

open Sys2Proof.Machine

set_option Elab.async false

/-! The encodings. -/

theorem test_wf_refuses_secread_spelling : Instr.wellFormed (.cmdBuild 0x20 7) = false := by decide
theorem test_wf_refuses_actsec_spelling : Instr.wellFormed (.cmdBuild 0x40 0) = false := by decide
theorem test_wf_refuses_chipid_spelling : Instr.wellFormed (.cmdBuild 0x10 0) = false := by decide
theorem test_wf_refuses_datamode_spelling : Instr.wellFormed (.cmdBuild 0xA0 0) = false := by decide
theorem test_wf_refuses_send_spelling : Instr.wellFormed (.ctrXfer 1 2 3 4 0 1 0 9) = false := by decide
theorem test_wf_refuses_light_spelling : Instr.wellFormed (.ksLight 1 0) = false := by decide
theorem test_wf_refuses_full_spelling : Instr.wellFormed (.ksFull 1 0) = false := by decide
theorem test_wf_accepts_neighbours :
    Instr.wellFormed (.cmdBuild 0x40 1) = true ∧ Instr.wellFormed (.cmdBuild 0x2F 0) = true ∧
      Instr.wellFormed (.ctrXfer 1 2 3 4 0 1 1 9) = true := by decide

/-- P1's second line. -/
theorem test_decode_k1Enc : decodeTableWord 72 0x10AABBCCDD11223344 = some (.k1Enc 0x11223344 0xAABBCCDD) := by decide
/-- P1's third line. -/
theorem test_decode_k1Dec : decodeTableWord 72 0x11043CB3EFAE5ECFE5 = some (.k1Dec 0xAE5ECFE5 0x043CB3EF) := by decide
/-- P1's first line, which is also KS.LIGHT's word; then the word with stage = 0, gen = 1. -/
theorem test_decode_ksLight : decodeTableWord 48 0x200044434241 = some (.ksInit 0x44434241 0 0) ∧
    decodeTableWord 48 0x200200000005 = some (.ksInit 5 0 1) := by decide
/-- P1's fourth line, which is also KS.FULL's word. -/
theorem test_decode_ksFull : decodeTableWord 48 0x200144434241 = some (.ksInit 0x44434241 1 0) := by decide
theorem test_decode_sesSeed : decodeTableWord 8 0x30 = some .sesSeed := by decide
theorem test_decode_cmdActkey1 : decodeTableWord 16 0x3101 = some (.cmdActkey1 1) := by decide
theorem test_decode_cmdBuild : decodeTableWord 32 0x322F0004 = some (.cmdBuild 0x2F 4) := by decide
theorem test_decode_saDecrypt : decodeTableWord 48 0x400144434241 = some (.saDecrypt 0x44434241 1) := by decide
theorem test_decode_aesSession : decodeTableWord 16 0x5001 = some (.aesSession 1) := by decide
/-- P3's request. -/
theorem test_decode_ctrXfer :
    decodeTableWord 240 0x60BF00000000000000000000000000000000000004000000020100001002 =
      some (.ctrXfer 0xBF000000 0 0 0 4 2 1 0x1002) := by decide
theorem test_decode_ntrUnlock : decodeTableWord 16 0x7000 = some (.ntrUnlock 0) := by decide
theorem test_decode_ctrUnlock : decodeTableWord 16 0x7101 = some (.ctrUnlock 1) := by decide
/-- P2's lines. -/
theorem test_decode_cmdActsec : decodeTableWord 32 0x32400000 = some .cmdActsec := by decide
theorem test_decode_cmdChipid : decodeTableWord 32 0x32100000 = some .cmdChipid := by decide
theorem test_decode_cmdSecread : decodeTableWord 32 0x32200005 = some (.cmdSecread 5) := by decide
theorem test_decode_cmdDatamode : decodeTableWord 32 0x32A00000 = some .cmdDatamode := by decide
theorem test_decode_ctrSend :
    decodeTableWord 240 0x600000000100000002000000030000000400000000000000010000000009 =
      some (.ctrSend 1 2 3 4 9) := by decide
/-- V8's frames. -/
theorem test_decode_frameActivateKey1G0 :
    decodeTableWord 64 0x3CABCDEF045678EE = some (.frameActivateKey1G0 0xABC 0xDEF 0x45678 0xEE) := by decide
theorem test_decode_frameActivateKey1G1 :
    decodeTableWord 64 0x3DABCDEF045678EE = some (.frameActivateKey1G1 0xABC 0xDEF 0x45678 0xEE) := by decide
/-- V9's lines b, a, d and c. -/
theorem test_decode_frameActivateSec :
    decodeTableWord 64 0x49ABC12345645678 = some (.frameActivateSec 0x9ABC 0x123 0x456 0x45678) := by decide
theorem test_decode_frameSecureChipid :
    decodeTableWord 64 0x19ABCABCDEF45678 = some (.frameSecureChipid 0x9ABC 0xABC 0xDEF 0x45678) := by decide
theorem test_decode_frameSecureRead :
    decodeTableWord 64 0x20004ABCDEF45678 = some (.frameSecureRead 4 0xABC 0xDEF 0x45678) := by decide
theorem test_decode_frameDataMode :
    decodeTableWord 64 0xA9ABCABCDEF45678 = some (.frameDataMode 0x9ABC 0xABC 0xDEF 0x45678) := by decide
/-- P4's line 8. -/
theorem test_decode_frameDataRead : decodeTableWord 64 0xB700005000000000 = some (.frameDataRead 0x5000) := by decide

/-- V25: a reserved OPSEL and a nonzero must-be-zero bit; R104: the wrong width. -/
theorem test_decode_rejects :
    decode ⟨16, 0x1200⟩ = .error .opsel ∧ decode ⟨16, 0x3102⟩ = .error .reservedBits ∧
      decode ⟨16, 0x3000⟩ = .error .width ∧ decode ⟨64, 0x3C00000010000000⟩ = .error .reservedBits ∧
      decode ⟨64, 0x5000000000000000⟩ = .error .frame := by decide

/-! The units. -/

/-- The response record of a next state. -/
def responseOf (o : Host.Outcome State Fault Refusal) : Option Response :=
  match o with
  | .next t => t.response
  | .fault _ => none
  | .refused _ => none

/-- What `f` sees of a next state. -/
def seen {α : Type} (f : State → α) (o : Host.Outcome State Fault Refusal) : Option α :=
  match o with
  | .next t => some (f t)
  | .fault _ => none
  | .refused _ => none

/-- Words `n` of V2's synthetic table from number `i` up. -/
def synWords : Nat → Nat → List Word
  | 0, _ => []
  | n + 1, i => BitVec.ofNat 32 (0x9E3779B9 * (i + 1)) :: synWords n (i + 1)

theorem synWords_length (n i : Nat) : (synWords n i).length = n := by
  induction n generalizing i with
  | zero => rfl
  | succ n ih => simp [synWords, ih]

/-- V2's synthetic table SYN. -/
def syn : Table := ⟨(synWords 0x412 0).toArray, by rw [List.size_toArray, synWords_length]⟩

/-- V2's session A. -/
def sessionA : Session := ⟨0xABC, 0xDEF, 0x45678, 0x9ABC, 0x123, 0x456⟩

/-- Reset, then a table of zeros and a session: cipher and command operations run. -/
def keyed (ses : Session) : State :=
  { State.reset with
    cipher := { CipherUnit.reset with tvalid := true }
    command := { CommandUnit.reset with ses := ses, svalid := true } }

/-- V2's fourth row. -/
theorem test_subTable : subTable syn 0x348CB564 = 0x89525FBD := by decide +kernel
/-- V3. -/
theorem test_enc_syn : enc syn ⟨0x11223344, 0xAABBCCDD⟩ = ⟨0xCD55F148, 0x31DF3709⟩ := by decide +kernel
/-- V4's first row. -/
theorem test_k1Dec_zero_table :
    responseOf (exec (.k1Dec 0x11223344 0xAABBCCDD) (keyed sessionA)) = some (.block 0xAABBCCDD 0x11223344) := by
  decide +kernel

/-- V24. -/
theorem test_k1Enc_after_reset : responseOf (exec (.k1Enc 0 0) State.reset) = some (.fault (.uninit .table)) := by
  decide +kernel

/-- V5. -/
theorem test_keyCode : deriveKeyCode 0x44434241 = ⟨0x44434241, 0x2221A120, 0x88868482⟩ ∧
    deriveKeyCode 0x80000001 = ⟨0x80000001, 0x40000000, 2⟩ := by decide
theorem test_ksInit_sets_tvalid : seen (·.cipher.tvalid) (exec (.ksInit 5 0 0) State.reset) = some true := by
  decide +kernel

/-- V8. -/
theorem test_sesSeed :
    seen (·.command.ses) (exec .sesSeed { State.reset with
      env := { Env.initial with
        draws := [0x11111ABC, 0x22222DEF, 0x33345678, 0x44449ABC, 0x55555123, 0x66666456] } }) =
      some sessionA := by decide +kernel
theorem test_cmdActkey1 :
    responseOf (exec (.cmdActkey1 1) { keyed sessionA with env := { Env.initial with draws := [0x777777EE] } }) =
      some (.frame 0x3DABCDEF045678EE) := by decide +kernel
/-- V9's line z. -/
theorem test_cmdChipid_zeroed :
    seen (·.command.pframe.val) (exec .cmdChipid (keyed ⟨0, 0, 0, 0, 0, 0⟩)) = some 0x1000000000000000 := by
  decide +kernel

/-- V9's lines a (with an ignored `blk`), b, c, d and the collision corner. -/
theorem test_cmdBuild_chipid :
    seen (·.command.pframe.val) (exec (.cmdBuild 0x10 0x1234) (keyed sessionA)) = some 0x19ABCABCDEF45678 := by
  decide +kernel
theorem test_cmdBuild_collision :
    seen (fun t => (t.command.pframe.val, t.command.ses.cnt)) (exec (.cmdBuild 0x2F 4) (keyed sessionA)) =
      some (0x2FABCABCDEF45678, 0x45678) := by decide +kernel
theorem test_cmdActsec :
    seen (·.command.pframe.val) (exec .cmdActsec (keyed sessionA)) = some 0x49ABC12345645678 := by decide +kernel
theorem test_cmdDatamode :
    seen (·.command.pframe.val) (exec .cmdDatamode (keyed sessionA)) = some 0xA9ABCABCDEF45678 := by decide +kernel
theorem test_cmdSecread :
    seen (fun t => (t.command.pframe.val, t.command.ses.cnt)) (exec (.cmdSecread 4) (keyed sessionA)) =
      some (0x20004ABCDEF45678, 0x45679) := by decide +kernel
/-- V10's wrap. -/
theorem test_cmdSecread_wraps :
    seen (·.command.ses.cnt) (exec (.cmdSecread 4) (keyed { sessionA with cnt := 0xFFFFF })) = some 0 := by
  decide +kernel

/-- The frame rows build the frames they name (V8, V9), and refuse another session's. -/
theorem test_frames :
    seen (·.command.pframe.val) (exec (.frameActivateSec 0x9ABC 0x123 0x456 0x45678) (keyed sessionA)) =
        some 0x49ABC12345645678 ∧
      exec (.frameActivateSec 0x9ABC 0x123 0x456 0x45679) (keyed sessionA) = .refused .frameNotBuilt := by
  constructor
  · decide +kernel
  · rfl

/-- V24: SA.DECRYPT after reset stops at its first read, with the table written. -/
theorem test_saDecrypt_after_reset :
    seen (fun t => (t.response, t.cipher.tvalid)) (exec (.saDecrypt 0x44434241 0) State.reset) =
      some (some (.fault (.uninit (.port (.sa 0)))), true) := by decide +kernel

/-- V14's second row: AESIN[0..3] never written. -/
def aesRow : AesUnit :=
  { AesUnit.reset with
    aesin := ⟨#[.unwritten 0, .unwritten 0, .unwritten 0, .unwritten 0, .holding 1, .holding 2, .holding 3, .holding 4,
      .holding 1, .holding 2, .holding 3, .holding 5, .holding 0, .holding 0, .holding 0], rfl⟩ }

theorem test_aesSession :
    seen (fun t => (t.response, t.log)) (exec (.aesSession 1) { State.reset with
      cfg := { Config.initial with aesEngine := .standIn }, aes := aesRow }) =
      some (some (.session ⟨1, 2, 3, 4⟩ false), [.mismatchMac]) := by decide +kernel
/-- V14's last row. -/
theorem test_aesSession_unwritten :
    responseOf (exec (.aesSession 0) { State.reset with aes := aesRow }) =
      some (.fault (.uninit (.port (.aesin 0)))) := by decide +kernel

/-- A controller's samples and FIFO. -/
def transport (status : List Sample) (fifo : List Word) : State :=
  { State.reset with env := { Env.initial with status := status, fifo := fifo } }

/-- V17. -/
theorem test_ctrXfer_misaligned :
    seen (fun t => (t.response, t.mem)) (exec (.ctrXfer 0xA2000000 0 0 0 4 1 1 0x2001)
      (transport [⟨true, false⟩, ⟨true, true⟩, ⟨true, false⟩, ⟨false, false⟩] [0xDDCCBBAA])) =
      some (some (.count 4), [(0x2001, 0xAA), (0x2002, 0xBB), (0x2003, 0xCC), (0x2004, 0xDD)]) := by decide +kernel
/-- V19. -/
theorem test_ctrXfer_short :
    seen (fun t => (t.response, t.mem.length, t.trace.length, t.env.status)) (exec (.ctrXfer 0 0 0 0 64 1 1 0x3000)
      (transport [⟨true, false⟩, ⟨true, true⟩, ⟨true, false⟩, ⟨true, true⟩, ⟨false, false⟩, ⟨false, false⟩, ⟨false, true⟩,
        ⟨false, false⟩] [0x11111111, 0x22222222])) =
      some (some (.count 8), 8, 4, []) := by decide +kernel
/-- V20. -/
theorem test_ctrSend :
    seen (fun t => (t.response, t.transport.xcode.val, t.env.status)) (exec (.ctrSend 1 2 3 4 5)
      (transport [⟨true, false⟩, ⟨true, false⟩, ⟨false, false⟩] [])) = some (some (.count 0), 0, []) := by decide +kernel
/-- V21. -/
theorem test_ctrXfer_refused : exec (.ctrXfer 0 0 0 0 4096 0x100000 0 0) State.reset = .refused .lengthOverflow := rfl

/-- V25. -/
theorem test_ntrUnlock_refused :
    exec (.ntrUnlock 0) { State.reset with seq := { Sequencer.reset with phase := .reading } } = .refused .phaseOrder := rfl
/-- R240: the header word that nothing has written is E_UNINIT. -/
theorem test_ntrUnlock_unwritten :
    responseOf (exec (.ntrUnlock 0) State.reset) = some (.fault (.uninit .idword)) := by decide +kernel
/-- P5. -/
theorem test_ctrUnlock :
    seen (fun t => (t.seq.resp1.val, t.seq.respMismatch, t.dev.secSeed))
      (exec (.ctrUnlock 1) { State.reset with
        cfg := { Config.initial with aesEngine := .standIn }
        aes := { AesUnit.reset with
          aesin := ⟨#[.unwritten 0, .unwritten 0, .unwritten 0, .unwritten 0, .holding 0x01020304, .holding 0x05060708,
            .holding 0x090A0B0C, .holding 0x0D0E0F10, .holding 0x01020304, .holding 0x05060708,
            .holding 0x090A0B0C, .holding 0x0D0E0F10, .holding 0, .holding 0, .holding 0], rfl⟩ }
        inputs := { Inputs.reset with idword := .holding 0xC2003FAE, capresp := .holding 2 }
        env := { Env.initial with
          draws := [0x42434445, 0x46474849]
          status := [⟨true, false⟩, ⟨true, true⟩, ⟨false, false⟩, ⟨true, false⟩, ⟨true, true⟩, ⟨false, false⟩,
            ⟨false, false⟩, ⟨false, false⟩]
          fifo := [0xC2003FAE, 2] } }) =
      some (2, false, ⟨0x01020304, 0x05060708, 0x45444342, 0x49484746⟩) := by decide +kernel
/-- P4's line 6, driven by hand. -/
theorem test_frameDataRead :
    seen (fun t => (t.response, t.log)) (exec (.frameDataRead 0x8000) { State.reset with
      cfg := { Config.initial with validationOffset := 0x8000, validationLen := 2, saOffset := 0x4000 }
      env := { Env.initial with replies := [⟨some 0, [1, 2]⟩] } }) =
      some (some (.bytes [1, 2]), [.validation [1, 2]]) := by decide +kernel

/-! For every obligation with hypotheses, a state and operands that meet them, each clause for itself. -/

theorem witness_DecodeReadsEncodedInstruction : Instr.wellFormed (.cmdBuild 0x2F 4) = true ∧
    Instr.wellFormed (.ctrXfer 0 0 0 0 0 1 1 0) = true := by decide
theorem witness_EncodeRecoversDecodedBits : decode ⟨72, 0x10AABBCCDD11223344⟩ = .ok (.k1Enc 0x11223344 0xAABBCCDD) := by
  decide

/-- A state in which one host event is left. -/
def host (e : HostEvent) : State := { State.reset with inbox := [e] }

theorem witness_ReservedEncodingsRefused_opsel :
    ∃ (s : State) (r : Request), s.hung = none ∧ s.inbox = .request r :: [] ∧ r.bits < 2 ^ r.nbits ∧ 8 ≤ r.nbits ∧
      r.bits / 2 ^ (r.nbits - 8) ∉ [0x10, 0x11, 0x20, 0x30, 0x31, 0x32, 0x40, 0x50, 0x60, 0x70, 0x71] :=
  ⟨host (.request ⟨8, 0x72⟩), ⟨8, 0x72⟩, rfl, rfl, by decide, by decide, by decide⟩

/-- One request with its lowest must-be-zero bit set, for each row of the statement. -/
theorem witness_ReservedEncodingsRefused_bits :
    ∀ row ∈ [((0x20, 48, 34, 6), 0x200400000000), ((0x31, 16, 1, 7), 0x3102),
        ((0x40, 48, 33, 7), 0x400200000000), ((0x50, 16, 1, 7), 0x5080),
        ((0x60, 240, 33, 7), 0x60 * 2 ^ 232 + 2 ^ 39), ((0x70, 16, 1, 7), 0x7002), ((0x71, 16, 1, 7), 0x71FE)],
      row.2 < 2 ^ row.1.2.1 ∧ row.2 / 2 ^ (row.1.2.1 - 8) = row.1.1 ∧
        row.2 / 2 ^ row.1.2.2.1 % 2 ^ row.1.2.2.2 ≠ 0 := by decide

theorem witness_StepRunsDecodedInstruction :
    decodeRequest ⟨8, 0x30⟩ = .ok .sesSeed ∧ (host (.request ⟨8, 0x30⟩)).inbox = .request ⟨8, 0x30⟩ :: [] ∧
      decodeFrame 0xB700005000000000 = .ok (.frameDataRead 0x5000) ∧
      (host (.frame 0xB700005000000000)).inbox = .frame 0xB700005000000000 :: [] ∧
      decodeRequest ⟨16, 0x3102⟩ = .error .reservedBits ∧
      (host (.request ⟨16, 0x3102⟩)).inbox = .request ⟨16, 0x3102⟩ :: [] ∧
      decodeFrame 0x5000000000000000 = .error .frame ∧
      (host (.frame 0x5000000000000000)).inbox = .frame 0x5000000000000000 :: [] ∧
      (∀ e, (host e).hung = none) ∧ State.reset.cfg.opActivateSec = 0x40 ∧ State.reset.cfg.opSecureChipid = 0x10 ∧
      State.reset.cfg.opSecureRead = 0x20 ∧ State.reset.cfg.opDataMode = 0xA0 :=
  ⟨rfl, rfl, rfl, rfl, rfl, rfl, rfl, rfl, fun _ => rfl, rfl, rfl, rfl, rfl⟩

/-- R103 under another parameter: the row's word stays CMD.BUILD 0x20, which then counts nothing and takes BLKI. -/
theorem test_cmdSecread_word_under_other_opcode :
    seen (fun t => (t.command.pframe.val, t.command.ses.cnt)) (step { keyed sessionA with
      cfg := { Config.initial with opSecureRead := 0x21 }, inbox := [.request ⟨32, 0x32200004⟩] }) =
      some (0x29ABCABCDEF45678, 0x45678) := by decide +kernel

/-- R310: a transfer of two words cut after its two calls and one store. -/
theorem test_reset_in_a_transfer :
    seen (fun t => (t.mem, t.response, t.transport.xcnt.written)) (step
      { transport [⟨true, false⟩, ⟨true, true⟩, ⟨true, true⟩] [0x44332211, 0x88776655] with
        inbox := [.cut (.request ⟨240, 0x60BF00000000000000000000000000000000000004000000020100001000⟩) 3 Env.initial] }) =
      some ([(0x1000, 0x11), (0x1001, 0x22), (0x1002, 0x33), (0x1003, 0x44)], none, false) := by decide +kernel

/-- In a hang past Raw, and in the middle of a transfer. -/
theorem witness_ResetLeavesTheStateOfR40 :
    (∃ (s : State) (e : Env) (rest : List HostEvent), s.inbox = .reset e :: rest ∧ rest = [] ∧ s.hung ≠ none ∧
      s.seq.phase ≠ .raw) ∧
    ∃ (s : State) (o : Operation) (n : Nat) (e : Env), s.hung = none ∧ s.inbox = .cut o n e :: [] :=
  ⟨⟨{ host (.reset Env.initial) with hung := some .pollLoop, seq := { Sequencer.reset with phase := .reading } },
    Env.initial, [], rfl, rfl, nofun, nofun⟩,
    ⟨host (.cut (.request ⟨8, 0x30⟩) 1 Env.initial), _, _, _, rfl, rfl⟩⟩

/-- The bits of a CTR.XFER of two words of four bytes to 0x1000 (R91). -/
def xferBits : Request := ⟨240, 0x60BF00000000000000000000000000000000000004000000020100001000⟩

theorem witness_ResetKeepsParametersAndOutside :
    (∃ s : State, s.inbox = .reset Env.initial :: [] ∧ s.mem ≠ []) ∧
    ∃ s : State, s.hung = none ∧ s.inbox = .cut (.request xferBits) (1 + 2) Env.initial :: [] ∧
      decodeRequest xferBits = .ok (.ctrXfer 0xBF000000 0 0 0 4 2 1 0x1000) ∧ s.cfg.pollBound = none ∧
      s.env.statusRest = ⟨false, true⟩ ∧ (0x1000 : Word).extractLsb' 0 2 = 0 ∧
      (pageClass 4).toNat * (minOneBlock 2).toNat < 2 ^ 32 ∧
      1 < transferPops s.env.status ((pageClass 4).toNat * (minOneBlock 2).toNat / 4) :=
  ⟨⟨{ host (.reset Env.initial) with mem := [(5, 1)] }, rfl, nofun⟩,
    { transport [⟨true, false⟩, ⟨true, true⟩, ⟨true, true⟩] [] with
      inbox := [.cut (.request xferBits) 3 Env.initial] }, rfl, rfl, by decide, rfl, rfl, by decide, by decide,
      by decide⟩

theorem witness_HangEndsOnlyByReset :
    ∃ (s : State) (w : Wait), s.hung = some w ∧ ∀ e, s.inbox.head? ≠ some (.reset e) :=
  ⟨{ host (.readPort .phase) with hung := some .aesEngine }, .aesEngine, rfl, nofun⟩

theorem witness_ReadPortsHaveNoSideEffect :
    (host (.readPort (.t 0x411))).hung = none ∧ portValue (host (.readPort (.t 0x411))) (.t 0x411) = none ∧
      portValue (host (.readPort .phase)) .phase = some 0 ∧ (host .readLog).inbox = .readLog :: [] := ⟨rfl, rfl, rfl, rfl⟩

/-- A machine with a frame built, in which one host event is left. -/
def withFrame (e : HostEvent) : State :=
  { host e with command := { CommandUnit.reset with eframe := .holding 0x3DABCDEF045678EE } }

theorem witness_HostWritesLand :
    (host (.writeSa 0xFFF 1)).inbox = .writeSa 0xFFF 1 :: [] ∧ (host (.writeAesin 14 1)).inbox = .writeAesin 14 1 :: [] ∧
      (host (.writeGamecode 1)).inbox = .writeGamecode 1 :: [] ∧ (host (.writeTiming 1)).inbox = .writeTiming 1 :: [] ∧
      (host (.writeSeedidx 1)).inbox = .writeSeedidx 1 :: [] ∧ (host (.writeIdword 1)).inbox = .writeIdword 1 :: [] ∧
      (host (.writeCapresp 1)).inbox = .writeCapresp 1 :: [] ∧
      ((host (.call (.sendEframe 4))).inbox = .call (.sendEframe 4) :: [] ∧
        (host (.call (.sendEframe 4))).command.eframe.written = false) ∧
      ((withFrame (.call (.sendEframe 4))).inbox = .call (.sendEframe 4) :: [] ∧
        (withFrame (.call (.sendEframe 4))).command.eframe.written = true ∧
        (withFrame (.call (.sendEframe 4))).promptReplies) ∧
      ((host (.call (.readSector 0x5000 0x1000))).inbox = .call (.readSector 0x5000 0x1000) :: [] ∧
        (host (.call (.readSector 0x5000 0x1000))).promptReplies) ∧
      (∀ c, (host (.call c)).inbox = .call c :: [] ∧ (host (.call c)).resetIn = none ∧ (host (.call c)).promptAccepts) :=
  ⟨rfl, rfl, rfl, rfl, rfl, rfl, rfl, ⟨rfl, rfl⟩,
    ⟨rfl, rfl, ⟨rfl, rfl, by simp [withFrame, host, State.reset, Env.initial], nofun⟩⟩,
    ⟨rfl, ⟨rfl, rfl, by simp [host, State.reset, Env.initial], nofun⟩⟩,
    fun _ => ⟨rfl, rfl, ⟨rfl, rfl, by simp [host, State.reset, Env.initial], nofun⟩⟩⟩

theorem witness_EncRunsTheForwardPass : (keyed sessionA).cipher.tvalid = true ∧ State.reset.cipher.tvalid = false :=
  ⟨rfl, rfl⟩
theorem witness_DecRunsTheReversePass : (keyed sessionA).cipher.tvalid = true ∧ State.reset.cipher.tvalid = false :=
  ⟨rfl, rfl⟩

theorem witness_ZeroTableSwapsTheWords : ∃ t : Table, ∀ i, i < 0x412 → slot t i = 0 :=
  ⟨Vector.replicate 0x412 0, fun i h => by simp [slot, h]⟩

theorem witness_XorStepAlternatesByParity : (0x411 : Nat) < 0x412 ∧ (0x12 : Nat) < 0x412 := by decide

/-- A machine with base table SYN for gen = 0 and none for gen = 1. -/
def based : State := { State.reset with cfg := { Config.initial with base0 := some syn, base1 := none } }

theorem witness_KsInitDerivesTheSchedule :
    (if (0 : BitVec 1) = 0 then based.cfg.base0 else based.cfg.base1) = some syn ∧
      (if (1 : BitVec 1) = 0 then based.cfg.base0 else based.cfg.base1) = none := ⟨rfl, rfl⟩

theorem witness_FullIsLightAndOnePass :
    Config.initial.ksScaleAfterPass = 1 ∧ { Config.initial with ksScaleAfterPass := 2 }.ksScaleAfterPass = 2 := ⟨rfl, rfl⟩

theorem witness_SesSeedDrawsSixFields :
    ({ Env.initial with draws := [1, 2, 3, 4, 5, 6, 7] } : Env).draws = 1 :: 2 :: 3 :: 4 :: 5 :: 6 :: [7] := rfl

theorem witness_ActKey1BuildsThePlainFrame :
    (keyed sessionA).command.svalid = true ∧ State.reset.command.svalid = false := ⟨rfl, rfl⟩

theorem keyed_canBuild (ses : Session) : (keyed ses).canBuild := ⟨rfl, rfl⟩

theorem witness_CmdBuildPacksSealsAndCounts :
    (keyed sessionA).canBuild ∧ State.reset.command.svalid = false ∧
      ({ keyed sessionA with cipher := CipherUnit.reset } : State).command.svalid = true ∧
      ({ keyed sessionA with cipher := CipherUnit.reset } : State).cipher.tvalid = false :=
  ⟨keyed_canBuild _, rfl, rfl, rfl⟩

theorem witness_OpcodeNibbleCollidesWithBlock : (0x0ABC : BitVec 16).extractLsb' 12 4 = 0 := by decide

theorem witness_CommandPseudoOperationsBuild : (keyed sessionA).canBuild := keyed_canBuild _

theorem witness_BuiltFrameOpensToItsPlaintext :
    ∃ t, (keyed sessionA).canBuild ∧ exec (.cmdBuild 0x10 0) (keyed sessionA) = .next t := ⟨_, keyed_canBuild _, rfl⟩

theorem witness_CounterCountsSecureReads : (keyed { sessionA with cnt := 0xFFFFF }).canBuild := keyed_canBuild _

theorem witness_EncryptedFrameRowsBuild :
    (keyed sessionA).canBuild ∧ (keyed sessionA).cfg.opActivateSec = 0x40 ∧
      carries (keyed sessionA) 0x40 0 0x9ABC 0x123 0x456 0x45678 ∧ (keyed sessionA).cfg.opSecureChipid = 0x10 ∧
      carries (keyed sessionA) 0x10 0 0x9ABC 0xABC 0xDEF 0x45678 ∧ (keyed sessionA).cfg.opSecureRead = 0x20 ∧
      carries (keyed sessionA) 0x20 4 4 0xABC 0xDEF 0x45678 ∧ (keyed sessionA).cfg.opDataMode = 0xA0 ∧
      carries (keyed sessionA) 0xA0 0 0x9ABC 0xABC 0xDEF 0x45678 :=
  ⟨keyed_canBuild _, rfl, ⟨rfl, rfl, rfl, rfl⟩, rfl, ⟨rfl, rfl, rfl, rfl⟩, rfl, ⟨rfl, rfl, rfl, rfl⟩, rfl,
    ⟨rfl, rfl, rfl, rfl⟩⟩

theorem witness_ActivateKey1FrameRowsBuild :
    ∃ s : State, s.command.svalid = true ∧ s.command.ses.p0 = 0xABC ∧ s.command.ses.p1 = 0xDEF ∧
      s.command.ses.cnt = 0x45678 ∧ s.env.nextDraw.extractLsb' 0 8 = 0xEE ∧ s.cfg.opActivateKey1G0 = 0x3C ∧
      s.cfg.opActivateKey1G1 = 0x3D :=
  ⟨{ keyed sessionA with env := { Env.initial with draws := [0x777777EE] } }, rfl, rfl, rfl, rfl, by decide, rfl, rfl⟩

theorem witness_ForeignFrameRowsRefused :
    ∃ s : State, s.canBuild ∧ s.command.svalid = true ∧
      specFrame s s.cfg.opActivateSec 0 ≠ 0x4#4 ++ (4 : BitVec 16) ++ 0xABC#12 ++ 0xDEF#12 ++ 0#20 ∧
      specFrame s s.cfg.opSecureChipid 0 ≠ 0x1#4 ++ (4 : BitVec 16) ++ 0xABC#12 ++ 0xDEF#12 ++ 0#20 ∧
      specFrame s s.cfg.opSecureRead 4 ≠ 0x2#4 ++ (4 : BitVec 16) ++ 0xABC#12 ++ 0xDEF#12 ++ 0#20 ∧
      specFrame s s.cfg.opDataMode 0 ≠ 0xA#4 ++ (4 : BitVec 16) ++ 0xABC#12 ++ 0xDEF#12 ++ 0#20 ∧
      specActKey1 s 0 ≠ 0x3C#8 ++ 0xABC#12 ++ 0xDEF#12 ++ 0#4 ++ 0x45678#20 ++ 0xEF#8 ∧
      specActKey1 s 1 ≠ 0x3D#8 ++ 0xABC#12 ++ 0xDEF#12 ++ 0#4 ++ 0x45678#20 ++ 0xEF#8 ∧
      readFrame { s.cfg with opDataRead := 0xB8 } 5 ≠ 0xB7#8 ++ (5 : Word) ++ 0#24 ∧
      State.reset.command.svalid = false ∧ { keyed sessionA with cipher := CipherUnit.reset }.cipher.tvalid = false :=
  ⟨{ keyed sessionA with env := { Env.initial with draws := [0x777777EE] } }, ⟨rfl, rfl⟩, rfl, by decide +kernel,
    by decide +kernel, by decide +kernel, by decide +kernel, by decide +kernel, by decide +kernel, by decide +kernel, rfl,
    rfl⟩

theorem witness_DataReadFrameReadsSectors :
    State.reset.cfg.readFrameFn = .gkDefault ∧ State.reset.cfg.opDataRead = 0xB7 ∧ State.reset.cfg.pollBound = none ∧
      State.reset.resetIn = none ∧ State.reset.env.nextReply.polls ≠ none := ⟨rfl, rfl, rfl, rfl, nofun⟩

/-- Every word of SA holds zero, and both stages have a base table. -/
def filled : State := { based with area := Vector.replicate 0x1000 (.holding 0) }

theorem filled_word (i : Nat) (h : i < 0x1000) : areaWord filled.area i = .holding 0 := by
  simp [areaWord, filled, h]

theorem filled_block (k : Nat) (h : k < 0x800) : HoldsBlock filled.area k ⟨0, 0⟩ :=
  ⟨filled_word _ (by omega), filled_word _ (by omega)⟩

theorem witness_SaDecryptRunsBothStages :
    (if (0 : BitVec 1) = 0 then filled.cfg.base0 else filled.cfg.base1) = some syn ∧ filled.cfg.saLightBlock < 0x800 ∧
      filled.cfg.saFullStart + filled.cfg.saFullCount ≤ 0x800 ∧
      ∀ k, k = filled.cfg.saLightBlock ∨
        (filled.cfg.saFullStart ≤ k ∧ k < filled.cfg.saFullStart + filled.cfg.saFullCount) →
        HoldsBlock filled.area k ⟨0, 0⟩ := by
  refine ⟨rfl, by decide, by decide, fun k h => filled_block k ?_⟩
  have e : filled.cfg.saLightBlock = 0 ∧ filled.cfg.saFullStart = 1 ∧ filled.cfg.saFullCount = 0x200 := ⟨rfl, rfl, rfl⟩
  omega

/-- An area whose block 0 is encrypted under one table and whose other blocks are encrypted under another. -/
def encrypted (light full : Table) : Area :=
  Vector.ofFn fun i : Fin 0x1000 => .holding
    (if i.val % 2 = 0 then (if i.val / 2 = 0 then enc light ⟨0, 0⟩ else enc full ⟨0, 0⟩).left
      else (if i.val / 2 = 0 then enc light ⟨0, 0⟩ else enc full ⟨0, 0⟩).right)

theorem encrypted_block (light full : Table) (k : Nat) (h : k < 0x800) :
    HoldsBlock (encrypted light full) k (if k = 0 then enc light ⟨0, 0⟩ else enc full ⟨0, 0⟩) := by
  have h1 : 2 * k < 0x1000 := by omega
  have h2 : 2 * k + 1 < 0x1000 := by omega
  have h3 : (2 * k) / 2 = k := by omega
  have h4 : (2 * k + 1) / 2 = k := by omega
  have h5 : (2 * k) % 2 = 0 := by omega
  have h6 : (2 * k + 1) % 2 ≠ 0 := by omega
  constructor
  · rw [areaWord, encrypted, Vector.getElem?_eq_getElem h1, Vector.getElem_ofFn, Option.getD_some, if_pos h5, h3]
  · rw [areaWord, encrypted, Vector.getElem?_eq_getElem h2, Vector.getElem_ofFn, Option.getD_some, if_neg h6, h4]

theorem witness_SaDecryptRecoversTheArea :
    ∃ s : State, (if (0 : BitVec 1) = 0 then s.cfg.base0 else s.cfg.base1) = some syn ∧
      s.cfg.saLightBlock < s.cfg.saFullStart ∧ s.cfg.saFullStart + s.cfg.saFullCount ≤ 0x800 ∧
      s.cfg.saLightBlock < 0x800 ∧
      HoldsBlock s.area s.cfg.saLightBlock (enc (specSchedule s.cfg syn 5 0).t ⟨0, 0⟩) ∧
      ∀ k, s.cfg.saFullStart ≤ k → k < s.cfg.saFullStart + s.cfg.saFullCount →
        HoldsBlock s.area k (enc (specSchedule s.cfg syn 5 1).t ⟨0, 0⟩) := by
  have e : based.cfg.saLightBlock = 0 ∧ based.cfg.saFullStart = 1 ∧ based.cfg.saFullCount = 0x200 := ⟨rfl, rfl, rfl⟩
  refine ⟨based.setArea (encrypted (specSchedule based.cfg syn 5 0).t (specSchedule based.cfg syn 5 1).t), rfl, by decide,
    by decide, by decide, encrypted_block _ _ 0 (by decide), fun k h1 h2 => ?_⟩
  have h1' : based.cfg.saFullStart ≤ k := h1
  have h2' : k < based.cfg.saFullStart + based.cfg.saFullCount := h2
  have := encrypted_block (specSchedule based.cfg syn 5 0).t (specSchedule based.cfg syn 5 1).t k (by omega)
  rwa [if_neg (by omega)] at this

/-- The ranges out of the buffer, each way; no base table; the light block's first word unwritten, then only its second;
the second word of block 3 the first unwritten one of the full range. -/
theorem witness_SaDecryptStopsOnUnwrittenWords :
    (0x800 ≤ ({ Config.initial with saLightBlock := 0x800 } : Config).saLightBlock ∧
      0x800 < ({ Config.initial with saFullCount := 0x800 } : Config).saFullStart +
        ({ Config.initial with saFullCount := 0x800 } : Config).saFullCount) ∧
      (State.reset.cfg.saLightBlock < 0x800 ∧ State.reset.cfg.saFullStart + State.reset.cfg.saFullCount ≤ 0x800) ∧
      ((if (1 : BitVec 1) = 0 then based.cfg.base0 else based.cfg.base1) = none) ∧
      ((if (0 : BitVec 1) = 0 then based.cfg.base0 else based.cfg.base1) = some syn) ∧
      2 * State.reset.cfg.saLightBlock + 1 < 0x1000 ∧ (areaWord State.reset.area 0).written = false ∧
      (areaWord (areaSet State.reset.area 0 5) 0).written = true ∧
      (areaWord (areaSet State.reset.area 0 5) 1).written = false ∧
      ∃ s : State, s.cfg.saFullStart ≤ 3 ∧ 3 < s.cfg.saFullStart + s.cfg.saFullCount ∧
        (∀ k', k' = s.cfg.saLightBlock ∨ (s.cfg.saFullStart ≤ k' ∧ k' < 3) → HoldsBlock s.area k' ⟨0, 0⟩) ∧
        (areaWord s.area (2 * 3)).written = true ∧ (areaWord s.area (2 * 3 + 1)).written = false := by
  refine ⟨⟨by decide, by decide⟩, ⟨by decide, by decide⟩, rfl, rfl, by decide, ?_, ?_, ?_,
    { filled with area := filled.area.set 7 (.unwritten 0) }, by decide, by decide, ?_, ?_, ?_⟩
  · simp [areaWord, State.reset, Area.reset, Reg.unwritten]
  · simp [areaWord, areaSet, areaIndex, Reg.holding]
  · simp [areaWord, areaSet, areaIndex, State.reset, Area.reset, Reg.unwritten]
  · intro k' h
    have e : filled.cfg.saLightBlock = 0 ∧ filled.cfg.saFullStart = 1 := ⟨rfl, rfl⟩
    have hk : k' < 3 := by
      change k' = filled.cfg.saLightBlock ∨ (filled.cfg.saFullStart ≤ k' ∧ k' < 3) at h
      omega
    have one : ∀ i < 6, areaWord (filled.area.set 7 (.unwritten 0)) i = .holding 0 := by
      intro i hi
      have h1 : i < 0x1000 := by omega
      rw [← filled_word i h1]
      simp only [areaWord, Vector.getElem?_eq_getElem h1, Vector.getElem_set]
      rw [if_neg (by omega)]
    exact ⟨one _ (by omega), one _ (by omega)⟩
  · simp [areaWord, filled, Reg.holding]
  · simp [areaWord, filled, Reg.unwritten]

/-- Ready for either cartridge. -/
def engine : State :=
  { State.reset with
    aes := { AesUnit.reset with aesin := Vector.replicate 15 (.holding 0) }
    inputs := { Inputs.reset with idword := .holding 0, capresp := .holding 0 } }

theorem engine_ready (dev : BitVec 1) : engine.sessionReady dev := fun i _ => by simp [engine, Reg.holding]

/-- Both parts: an engine that answers, and the first unwritten word at the two ends of the reading order. -/
theorem witness_AesSessionDerivesTheKey :
    (engine.resetIn = none ∧ engine.sessionReady 0 ∧ engine.cfg.pollBound = none ∧ engine.env.nextAccept ≠ none) ∧
    (sessionReads 0 = [] ++ 0 :: [1, 2, 3, 12, 13, 14, 4, 5, 6, 7, 8, 9, 10, 11] ∧
      State.reset.aes.aesin[(0 : Fin 15)].written = false) ∧
    ∃ s : State, sessionReads 1 = [12, 13, 14, 4, 5, 6, 7, 8, 9, 10] ++ 11 :: [] ∧
      (∀ j ∈ ([12, 13, 14, 4, 5, 6, 7, 8, 9, 10] : List (Fin 15)), s.aes.aesin[j].written = true) ∧
      s.aes.aesin[(11 : Fin 15)].written = false := by
  refine ⟨⟨rfl, engine_ready 0, rfl, nofun⟩, ⟨by decide, by decide⟩,
    { engine with aes := { engine.aes with aesin := engine.aes.aesin.set 11 (.unwritten 0) } }, by decide, ?_, ?_⟩
  · intro j hj
    simp only [List.mem_cons, List.not_mem_nil, or_false] at hj
    rcases hj with rfl | rfl | rfl | rfl | rfl | rfl | rfl | rfl | rfl | rfl <;> rfl
  · rfl

/-- With the bound infinite, and finite. -/
theorem witness_AesSessionHangsWithItsEngine :
    ∃ s u : State, s.resetIn = none ∧ s.sessionReady 1 ∧ s.env.nextAccept = none ∧ s.cfg.pollBound = none ∧
      u.resetIn = none ∧ u.sessionReady 1 ∧ u.env.nextAccept = none ∧ u.cfg.pollBound ≠ none :=
  ⟨{ engine with env := { Env.initial with acceptRest := none } },
    { engine with env := { Env.initial with acceptRest := none }, cfg := { Config.initial with pollBound := some 3 } },
    rfl, engine_ready 1, rfl, rfl, rfl, engine_ready 1, rfl, nofun⟩

theorem witness_PageSizesCollapseToLegalOnes : legalPage 4096 ∧ ¬ legalPage 4095 ∧ ¬ legalPage 4097 := by
  simp [legalPage]

theorem witness_ClampingIsSilent : ¬ legalPage (16 : Word).toNat ∧ legalPage (512 : Word).toNat ∧
    ∃ t, exec (.ctrXfer 0 0 0 0 0 0 0 0) State.reset = .next t := ⟨by simp [legalPage], by simp [legalPage], _, rfl⟩

theorem witness_OverlongTransfersRefused :
    2 ^ 32 ≤ (pageClass 4096).toNat * (if (0x100000 : Word) = 0 then 1 else (0x100000 : Word).toNat) ∧
      (∃ t, exec (.ctrXfer 0 0 0 0 0 0 0 0) State.reset = .next t) ∧ (0xFFFFF : Word).toNat < 2 ^ 20 :=
  ⟨by decide, ⟨_, rfl⟩, by decide⟩

theorem witness_StoreLeavesTheSameFourBytes : (0xFFFFFFFC : Word).toNat % 4 = 0 := by decide

theorem witness_CtrXferDeliversItsWords :
    ∃ s : State, s.promptStatus ∧ s.env.status.length = 4 ∧
      (pageClass 4096).toNat * (minOneBlock 0xFFFFF).toNat < 2 ^ 32 :=
  ⟨transport [⟨true, false⟩, ⟨true, true⟩, ⟨true, true⟩, ⟨false, false⟩] [], ⟨rfl, rfl, rfl⟩, rfl, by decide⟩

theorem witness_BusyControllerDeliversAll :
    ∃ (x : Sample) (xs : List Sample) (s : State), s.promptStatus ∧ s.env.status = x :: xs ∧ x.busy = true ∧
      (∀ y ∈ xs, y.busy = true) ∧ (pageClass 4).toNat * (minOneBlock 0).toNat < 2 ^ 32 ∧
      (pageClass 4).toNat * (minOneBlock 0).toNat ≤ 4 * (xs.filter fun y => y.ready).length :=
  ⟨⟨true, false⟩, [⟨true, false⟩, ⟨true, true⟩], transport [⟨true, false⟩, ⟨true, false⟩, ⟨true, true⟩] [], ⟨rfl, rfl, rfl⟩,
    rfl, rfl, by decide, by decide, by decide⟩

theorem witness_CtrSendMovesNoData : State.reset.cfg.pollBound = none ∧ State.reset.resetIn = none ∧
    State.reset.env.statusRest.busy = false := ⟨rfl, rfl, rfl⟩

/-- A machine whose controller gives one answer for ever. -/
def steady (x : Sample) (bound : Option Nat) : State :=
  { State.reset with env := { Env.initial with statusRest := x }, cfg := { Config.initial with pollBound := bound } }

/-- Each wait, with the bound infinite and (but for the last clause) finite. -/
theorem witness_StalledTransferNeverCompletes :
    (∀ x b, (steady x b).resetIn = none ∧ (steady x b).env.status = [] ∧ (steady x b).env.statusRest = x ∧
      (steady x b).cfg.pollBound = b) ∧ pageClass 4 ≠ 0 ∧ pageClass 0 = 0 ∧ (some 3 : Option Nat) ≠ some 0 ∧
      (⟨true, false⟩ : Sample).busy = true ∧ (pageClass 4).toNat * (minOneBlock 1).toNat < 2 ^ 32 :=
  ⟨fun _ _ => ⟨rfl, rfl, rfl, rfl⟩, by decide, by decide, by decide, rfl, by decide⟩

theorem witness_XferWordReturnsThePoppedWord :
    ∃ (b b' : Bool) (xs : List Sample) (s : State), s.promptStatus ∧ s.env.status = ⟨true, b⟩ :: ⟨b', true⟩ :: xs :=
  ⟨false, true, [], transport [⟨true, false⟩, ⟨true, true⟩] [5], ⟨rfl, rfl, rfl⟩, rfl⟩

/-- Ready for the NTR unlock sequence, with either geometry. -/
def cartridge (idword : Word) : State :=
  { based with
    inputs := ⟨.holding 0x44434241, .holding 1000, .holding 0, .holding idword, .unwritten 0⟩
    env := { Env.initial with replies := [⟨some 0, []⟩, ⟨some 9, []⟩] } }

theorem witness_NtrUnlockReachesReading (idword : Word) :
    (cartridge idword).seq.phase = .raw ∧
      (if (0 : BitVec 1) = 0 then (cartridge idword).cfg.base0 else (cartridge idword).cfg.base1) = some syn ∧
      (cartridge idword).promptReplies ∧ (cartridge idword).inputs.gamecode.written = true ∧
      (cartridge idword).inputs.timing.written = true ∧ (cartridge idword).inputs.seedidx.written = true ∧
      (cartridge idword).inputs.idword.written = true ∧ (cartridge idword).cfg.cntIncAll = false ∧
      (cartridge idword).cfg.opActivateSec ≠ (cartridge idword).cfg.opSecureRead ∧
      (cartridge idword).cfg.opSecureChipid ≠ (cartridge idword).cfg.opSecureRead ∧
      (cartridge idword).cfg.opDataMode ≠ (cartridge idword).cfg.opSecureRead :=
  ⟨rfl, rfl, ⟨rfl, rfl, by simp [cartridge], nofun⟩, rfl, rfl, rfl, rfl, rfl, nofun, nofun, nofun⟩

theorem witness_NtrUnlockRefusedPastRaw :
    ({ State.reset with seq := { Sequencer.reset with phase := .secureKeyed } } : State).seq.phase ≠ .raw ∧
      based.seq.phase = .raw ∧ (if (1 : BitVec 1) = 0 then based.cfg.base0 else based.cfg.base1) = none :=
  ⟨nofun, rfl, rfl⟩

/-- A silent cartridge; then each input unwritten, with the geometry its clause needs. -/
theorem witness_NtrUnlockHangsOnASilentCartridge :
    (∃ s : State, s.seq.phase = .raw ∧ s.resetIn = none ∧
      (if (0 : BitVec 1) = 0 then s.cfg.base0 else s.cfg.base1) = some syn ∧ s.cfg.pollBound = none ∧
      (s.env.afterDraws 7).nextReply.polls = none ∧ s.inputs.gamecode.written = true ∧ s.inputs.idword.written = true) ∧
    State.reset.inputs.idword.written = false ∧
    (∃ s : State, s.inputs.idword.written = true ∧ s.inputs.gamecode.written = false) ∧
    (∃ s : State, s.inputs.idword.written = true ∧ s.inputs.gamecode.written = true ∧ s.promptReplies ∧
      s.inputs.idword.val.getLsbD 31 = true ∧ s.inputs.timing.written = false) ∧
    (∀ idword, ∃ s : State, s.inputs.idword = .holding idword ∧ s.inputs.gamecode.written = true ∧ s.promptReplies ∧
      s.inputs.timing.written = true ∧ s.inputs.seedidx.written = false) := by
  have prompt : ∀ i : Inputs, ({ cartridge 0 with inputs := i } : State).promptReplies :=
    fun _ => ⟨rfl, rfl, by simp [cartridge], nofun⟩
  exact ⟨⟨{ cartridge 0 with env := { Env.initial with replyRest := none } }, rfl, rfl, rfl, rfl, rfl, rfl, rfl⟩, rfl,
    ⟨{ cartridge 0 with inputs := { Inputs.reset with idword := .holding 0 } }, rfl, rfl⟩,
    ⟨{ cartridge 0 with inputs := ⟨.holding 1, .unwritten 0, .holding 0, .holding 0x80000000, .unwritten 0⟩ }, rfl, rfl,
      prompt _, by decide, rfl⟩,
    fun w => ⟨{ cartridge 0 with inputs := ⟨.holding 1, .holding 0, .unwritten 0, .holding w, .unwritten 0⟩ }, rfl, rfl,
      prompt _, rfl, rfl⟩⟩

/-- The inputs written; CAPRESP unwritten without an index; with an index, IDWORD unwritten and CAPRESP alone unwritten. -/
theorem witness_CtrUnlockRunsTheHandshake :
    (engine.sessionReady 0 ∧ engine.promptStatus ∧ engine.promptAccepts ∧ engine.inputs.idword.written = true ∧
      engine.inputs.capresp.written = true) ∧
    (∃ s : State, s.sessionReady 0 ∧ s.promptStatus ∧ s.promptAccepts ∧ s.cfg.secKeyIndex = none ∧
      s.inputs.capresp.written = false) ∧
    (∃ s : State, s.sessionReady 0 ∧ s.promptStatus ∧ s.promptAccepts ∧ s.cfg.secKeyIndex ≠ none ∧
      s.inputs.idword.written = false) ∧
    ∃ s : State, s.sessionReady 0 ∧ s.promptStatus ∧ s.promptAccepts ∧ s.cfg.secKeyIndex ≠ none ∧
      s.inputs.idword.written = true ∧ s.inputs.capresp.written = false :=
  have acc : engine.promptAccepts := ⟨rfl, rfl, by simp [engine, State.reset, Env.initial], nofun⟩
  ⟨⟨engine_ready 0, ⟨rfl, rfl, rfl⟩, acc, rfl, rfl⟩,
    ⟨{ engine with inputs := Inputs.reset }, engine_ready 0, ⟨rfl, rfl, rfl⟩, acc, rfl, rfl⟩,
    ⟨{ engine with inputs := Inputs.reset, cfg := { Config.initial with secKeyIndex := some 7 } }, engine_ready 0,
      ⟨rfl, rfl, rfl⟩, acc, nofun, rfl⟩,
    ⟨{ engine with
        inputs := { Inputs.reset with idword := .holding 0 }, cfg := { Config.initial with secKeyIndex := some 7 } },
      engine_ready 0, ⟨rfl, rfl, rfl⟩, acc, nofun, rfl, rfl⟩⟩

theorem keyed_inv (ses : Session) : (keyed ses).Inv where
  memory := rfl
  transfer := ⟨⟨rfl, rfl, rfl, rfl, rfl⟩, fun h => absurd h (Bool.false_ne_true)⟩
  frames := rfl
  session h := absurd h Bool.false_ne_true
  chipid h := absurd h Bool.false_ne_true
  keyed h := absurd rfl h
  silent h := absurd rfl h
  uncut := rfl

theorem witness_StepKeepsInvariant : ∃ s t : State, s.Inv ∧ s.inbox = [.writeIdword 5] ∧ step s = .next t :=
  ⟨{ keyed sessionA with inbox := [.writeIdword 5] }, _,
    ⟨(keyed_inv sessionA).memory, (keyed_inv sessionA).transfer, rfl, (keyed_inv sessionA).session, (keyed_inv sessionA).chipid, fun h => absurd rfl h,
      fun h => absurd rfl h, rfl⟩, rfl, rfl⟩

theorem witness_OperationsLeaveParametersAndInputs : ∃ t, exec (.k1Enc 1 2) (keyed sessionA) = .next t := ⟨_, rfl⟩
theorem witness_LogGrowsAndMismatchesStick :
    ∃ t, exec .cmdChipid { keyed sessionA with
      seq := { Sequencer.reset with idMismatch := true, respMismatch := true } } = .next t := ⟨_, rfl⟩
theorem witness_OnlyTransfersWriteHostMemory :
    ∃ t, exec .sesSeed { State.reset with mem := [(0, 1)] } = .next t := ⟨_, rfl⟩
theorem witness_OnlySchedulesWriteTheTable : ∃ t, exec .sesSeed (keyed sessionA) = .next t := ⟨_, rfl⟩
theorem witness_OnlyNtrUnlockMovesThePhase :
    ∃ t, exec .sesSeed { State.reset with seq := { Sequencer.reset with phase := .reading } } = .next t ∧
      (∀ gen, (Instr.sesSeed ≠ .ntrUnlock gen)) ∧ ∀ dev, Instr.sesSeed ≠ .ctrUnlock dev := ⟨_, rfl, nofun, nofun⟩
theorem witness_OnlySessionsWriteTheAesUnit :
    ∃ t, exec .sesSeed engine = .next t ∧ ∀ dev, Instr.sesSeed ≠ .aesSession dev ∧ Instr.sesSeed ≠ .ctrUnlock dev :=
  ⟨_, rfl, fun _ => ⟨nofun, nofun⟩⟩

end Sys2Proof.Tests
end

section
/-! PROOFS. The page sizes (30_encoding.md R100): PageClass keeps the legal sizes and answers a legal one, and the code
of a legal size determines the size. -/

namespace Sys2Proof.Machine

/-- A word is a legal page size when it is one of the seven words that PageClass keeps. -/
theorem legalPage_toNat_iff (page : Word) :
    legalPage page.toNat ↔
      page = 0 ∨ page = 4 ∨ page = 64 ∨ page = 512 ∨ page = 1024 ∨ page = 2048 ∨ page = 4096 := by
  simp [legalPage, ← BitVec.toNat_inj]

theorem pageClass_of_legalPage {page : Word} (h : legalPage page.toNat) : pageClass page = page :=
  if_pos ((legalPage_toNat_iff page).1 h)

theorem pageClass_of_not_legalPage {page : Word} (h : ¬ legalPage page.toNat) : pageClass page = 4096 :=
  if_neg (mt (legalPage_toNat_iff page).2 h)

theorem legalPage_pageClass (page : Word) : legalPage (pageClass page).toNat := by
  by_cases h : legalPage page.toNat
  · rwa [pageClass_of_legalPage h]
  · rw [pageClass_of_not_legalPage h]
    simp [legalPage]

/-- The code of 4096 is the one that `pageCodeOf` gives outside the legal sizes too, so PageClass does not change it. -/
theorem pageCodeOf_pageClass (codes : PageCodes) (page : Word) :
    pageCodeOf codes (pageClass page) = pageCodeOf codes page := by
  by_cases h : legalPage page.toNat
  · rw [pageClass_of_legalPage h]
  · rw [pageClass_of_not_legalPage h]
    simp only [legalPage_toNat_iff, not_or] at h
    have last : pageCodeOf codes page = codes.code4096 := by simp only [pageCodeOf, h, if_false]
    exact last.symm

/-- The page size that a hardware code stands for: the inverse of `pageCodeOf` on the legal sizes. -/
def pageOfCode (codes : PageCodes) (code : Word) : Word :=
  if codes.code0 = code then 0
  else if codes.code4 = code then 4
  else if codes.code64 = code then 64
  else if codes.code512 = code then 512
  else if codes.code1024 = code then 1024
  else if codes.code2048 = code then 2048
  else 4096

/-- The codes are distinct (R11), so a legal size can be read back from its code. -/
theorem pageOfCode_pageCodeOf (codes : PageCodes) {page : Word} (h : legalPage page.toNat) :
    pageOfCode codes (pageCodeOf codes page) = page := by
  have distinct := codes.distinct
  simp only [List.nodup_cons, List.mem_cons, not_or] at distinct
  obtain rfl | rfl | rfl | rfl | rfl | rfl | rfl := (legalPage_toNat_iff page).1 h <;>
    simp [pageCodeOf, pageOfCode, distinct]

theorem pageCodeOf_injective (codes : PageCodes) {page page' : Word} (h : legalPage page.toNat)
    (h' : legalPage page'.toNat) (same : pageCodeOf codes page = pageCodeOf codes page') : page = page' :=
  calc page
    _ = pageOfCode codes (pageCodeOf codes page) := (pageOfCode_pageCodeOf codes h).symm
    _ = pageOfCode codes (pageCodeOf codes page') := by rw [same]
    _ = page' := pageOfCode_pageCodeOf codes h'

/-- Settles O40: the default codes are read off the default map, and under every map the codes of the collapsed sizes
are distinct because those sizes are legal. -/
theorem pageSizesCollapseToLegalOnes : Obligations.PageSizesCollapseToLegalOnes := fun page =>
  ⟨pageClass_of_legalPage, pageClass_of_not_legalPage, pageCodeOf_pageClass Config.initial.pageCode page,
    fun codes page' => pageCodeOf_injective codes (legalPage_pageClass page) (legalPage_pageClass page')⟩

end Sys2Proof.Machine
end

section
/-! PROOFS. Who writes what (10_state.md R21 to R36): the kinds of write, which instruction makes which, and for each
element that it is kept by every instruction that makes no write of its kind. -/

namespace Sys2Proof.Machine

/-- The kinds of write that an instruction makes to the block and to host memory. -/
inductive WriteKind where
  | blk
  | schedule
  | session
  | frames
  | counter
  | area
  | aesResult
  | transfer
  | store
  | geometry
  | chipid
  | phase
  | answers
  | mismatch

/-- `Wrote k s t`: a write of kind `k` takes `s` to `t`. -/
inductive Wrote : WriteKind → State → State → Prop where
  | blk (s : State) (b0 b1 : Reg Word) : Wrote .blk s (s.setCipher { s.cipher with blk0 := b0, blk1 := b1 })
  | schedule (s : State) (x : Schedule) : Wrote .schedule s (s.setCipher { s.cipher with sched := x, tvalid := true })
  | session (s : State) (x : Session) : Wrote .session s (s.setCommand { s.command with ses := x, svalid := true })
  | frames (s : State) (p e : Frame) :
    Wrote .frames s (s.setCommand { s.command with pframe := .holding p, eframe := .holding e })
  | counter (s : State) (c : BitVec 20) :
    Wrote .counter s (s.setCommand { s.command with ses := { s.command.ses with cnt := c } })
  | area (s : State) (a : Area) : Wrote .area s (s.setArea a)
  | aesResult (s : State) (q : Quad) (ok : Bool) :
    Wrote .aesResult s (s.setAes { s.aes with aesout := .holding q, macv := ok })
  | transfer (s : State) (r : TransportUnit) : Wrote .transfer s (s.setTransport r)
  | store (s : State) (m : Memory) : Wrote .store s (s.setMem m)
  | geometry (s : State) (b : Bool) : Wrote .geometry s (s.setSeq { s.seq with smallgeo := b })
  | chipid (s : State) (w : Word) (b : Bool) :
    Wrote .chipid s (s.setSeq { s.seq with secid := .holding w, idMismatch := s.seq.idMismatch || b })
  | phase (s : State) (p : Phase) : Wrote .phase s (s.setSeq { s.seq with phase := p })
  | answers (s : State) (r0 r1 : Reg Word) : Wrote .answers s (s.setSeq { s.seq with resp0 := r0, resp1 := r1 })
  | mismatch (s : State) (b : Bool) :
    Wrote .mismatch s (s.setSeq { s.seq with respMismatch := s.seq.respMismatch || b })

/-- The kinds of write of an instruction: the table of 10_state.md's writers. -/
def MayWrite (i : Instr) (k : WriteKind) : Prop :=
  match i with
  | .k1Enc _ _ | .k1Dec _ _ => k = .blk
  | .ksInit _ _ _ | .ksLight _ _ | .ksFull _ _ => k = .schedule
  | .sesSeed => k = .session
  | .cmdActkey1 _ | .frameActivateKey1G0 _ _ _ _ | .frameActivateKey1G1 _ _ _ _ => k = .frames
  | .cmdBuild _ _ | .cmdActsec | .cmdChipid | .cmdSecread _ | .cmdDatamode | .frameActivateSec _ _ _ _
  | .frameSecureChipid _ _ _ _ | .frameSecureRead _ _ _ _ | .frameDataMode _ _ _ _ => k = .frames ∨ k = .counter
  | .saDecrypt _ _ => k = .schedule ∨ k = .area
  | .aesSession _ => k = .aesResult
  | .ctrXfer _ _ _ _ _ _ dv _ => k = .transfer ∨ (k = .store ∧ dv = 1)
  | .ctrSend _ _ _ _ _ => k = .transfer
  | .ntrUnlock _ =>
    k ∈ [WriteKind.geometry, .schedule, .session, .frames, .counter, .chipid, .phase, .area]
  | .ctrUnlock _ => k ∈ [WriteKind.aesResult, .transfer, .answers, .mismatch]
  | .frameDataRead _ => k = .area

/-- `R` holds across every write of kind `k`. -/
def KindRespects (R : State → State → Prop) (k : WriteKind) : Prop := ∀ s t, Wrote k s t → R s t

/-- A pop that is stored nowhere writes the transfer registers only. -/
theorem KindRespects.popElsewhere {R : State → State → Prop} (ht : KindRespects R .transfer) {sink : Sink}
    (elsewhere : ∀ cnt w, sinkSteps sink cnt w = []) : PopRespects R sink where
  store s w f _ hf := by rw [elsewhere] at hf; cases hf
  count _ _ := ht _ _ (.transfer ..)

/-- A pop, wherever it is stored. -/
theorem KindRespects.pop {R : State → State → Prop} (ht : KindRespects R .transfer) (hs : KindRespects R .store)
    (sink : Sink) : PopRespects R sink where
  store _ _ _ _ _ := hs _ _ (.store ..)
  count _ _ := ht _ _ (.transfer ..)

/-- A relation across an instruction's writes: across its kinds of write and, for a transfer, across its registers and
its pops. -/
theorem writes_of_kinds {R : State → State → Prop} {i : Instr}
    (h : ∀ {k s t}, Wrote k s t → k ≠ .transfer → k ≠ .store → MayWrite i k → R s t)
    (hx : MayWrite i .transfer → ∀ c pagesize blocks sink,
      MayWrite i .store ∨ (∀ cnt w, sinkSteps sink cnt w = []) → TransferRespects R c pagesize blocks sink) :
    Writes R i := by
  cases i with
  | k1Enc | k1Dec => exact fun _ _ _ => h (.blk ..) nofun nofun rfl
  | ksInit | ksLight | ksFull => exact fun _ _ _ _ => h (.schedule ..) nofun nofun rfl
  | sesSeed => exact fun _ _ => h (.session ..) nofun nofun rfl
  | cmdActkey1 | frameActivateKey1G0 | frameActivateKey1G1 => exact fun _ _ _ => h (.frames ..) nofun nofun rfl
  | cmdBuild | cmdActsec | cmdChipid | cmdSecread | cmdDatamode | frameActivateSec | frameSecureChipid
  | frameSecureRead | frameDataMode =>
    exact ⟨fun _ _ _ => h (.frames ..) nofun nofun (.inl rfl),
      fun _ _ => h (.counter ..) nofun nofun (.inr rfl)⟩
  | saDecrypt =>
    exact ⟨fun _ _ _ _ => h (.schedule ..) nofun nofun (.inl rfl),
      fun _ _ => h (.area ..) nofun nofun (.inr rfl)⟩
  | aesSession => exact fun _ _ _ => h (.aesResult ..) nofun nofun rfl
  | ctrXfer c0 c1 c2 c3 pagesize blocks dv dest =>
    refine hx (.inl rfl) _ _ _ _ ?_
    by_cases hd : dv = 1
    · exact .inl (.inr ⟨rfl, hd⟩)
    · exact .inr fun _ _ => by rw [sinkOf, if_neg hd]; rfl
  | ctrSend => exact hx rfl _ _ _ _ (.inr fun _ _ => rfl)
  | ntrUnlock gen =>
    exact
      { geometry := fun _ _ => h (.geometry ..) nofun nofun (by simp [MayWrite])
        schedule := fun _ _ _ _ => h (.schedule ..) nofun nofun (by simp [MayWrite])
        session := fun _ _ => h (.session ..) nofun nofun (by simp [MayWrite])
        frames := fun _ _ _ => h (.frames ..) nofun nofun (by simp [MayWrite])
        counter := fun _ _ => h (.counter ..) nofun nofun (by simp [MayWrite])
        chipid := fun _ _ _ => h (.chipid ..) nofun nofun (by simp [MayWrite])
        phase := fun _ _ => h (.phase ..) nofun nofun (by simp [MayWrite])
        area := fun _ _ => h (.area ..) nofun nofun (by simp [MayWrite]) }
  | ctrUnlock dev =>
    have hx := hx (by simp [MayWrite])
    exact
      { capture := (hx ⟨0, 0, 0, 0⟩ 4 1 .capture (.inr fun _ _ => rfl) (by decide)).2
        discard := (hx ⟨0, 0, 0, 0⟩ 0 1 .discard (.inr fun _ _ => rfl) (by decide)).2
        registers := fun c p s hp =>
          (hx c p 1 .discard (.inr fun _ _ => rfl) (by rcases hp with rfl | rfl <;> decide)).1 s
        session := fun _ _ _ => h (.aesResult ..) nofun nofun (by simp [MayWrite])
        challenge := fun s v => h (.aesResult s v s.aes.macv) nofun nofun (by simp [MayWrite])
        resp0 := fun s v => h (.answers s v s.seq.resp1) nofun nofun (by simp [MayWrite])
        resp1 := fun s v => h (.answers s s.seq.resp0 v) nofun nofun (by simp [MayWrite])
        mismatch := fun _ _ => h (.mismatch ..) nofun nofun (by simp [MayWrite]) }
  | frameDataRead => exact fun _ _ => h (.area ..) nofun nofun rfl

/-- A relation across any write of an instruction's kinds. -/
theorem writes_of_kindRespects {R : State → State → Prop} {i : Instr} (h : ∀ k, MayWrite i k → KindRespects R k) :
    Writes R i :=
  writes_of_kinds (fun w _ _ hk => h _ hk _ _ w) fun ht _ _ _ _ stores _ =>
    have ht := h .transfer ht
    ⟨fun _ => ht _ _ (.transfer ..), stores.elim (fun hs => ht.pop (h .store hs) _) ht.popElsewhere⟩

/-- What only writes of the kinds in the table change, and the parameters, the inputs and the inbox: the state without
the environment's side, the log and the report of the operation. -/
structure Elements where
  cfg : Config
  cipher : CipherUnit
  command : CommandUnit
  area : Area
  aes : AesUnit
  transport : TransportUnit
  seq : Sequencer
  inputs : Inputs
  mem : Memory
  inbox : List HostEvent

def State.elements (s : State) : Elements :=
  ⟨s.cfg, s.cipher, s.command, s.area, s.aes, s.transport, s.seq, s.inputs, s.mem, s.inbox⟩

/-- A part of the elements is closed under all that an operation does besides its writes. -/
theorem closed_of_elements {α : Type} (p : Elements → α) :
    Closed (fun s t => p t.elements = p s.elements) (fun s t => p t.elements = p s.elements) :=
  Closed.of_eq (p := fun s => p s.elements) (fun _ _ => rfl) (fun _ _ => rfl) (fun _ _ => rfl) (fun _ _ => rfl)
    (fun _ _ => rfl) (fun _ _ => rfl) (fun _ _ => rfl)

/-- An instruction keeps a part of the elements when no write of its kinds touches it. -/
theorem exec_keeps {α : Type} (p : Elements → α) {i : Instr} {s t : State} (e : exec i s = .next t)
    (untouched : ∀ k, MayWrite i k → ∀ {s t}, Wrote k s t → p t.elements = p s.elements) :
    p t.elements = p s.elements :=
  (closed_of_elements p).exec (writes_of_kindRespects fun k hk _ _ => untouched k hk) e

section Kept

variable {i : Instr} {s t : State} (e : exec i s = .next t)
include e

theorem exec_keeps_outside : t.cfg = s.cfg ∧ t.inputs = s.inputs ∧ t.inbox = s.inbox := by
  have key := exec_keeps (fun s => (s.cfg, s.inputs, s.inbox)) e fun _ _ _ _ w => by cases w <;> rfl
  simp only [Prod.mk.injEq] at key
  exact key

theorem exec_keeps_mem (h : ¬ MayWrite i .store) : t.mem = s.mem :=
  exec_keeps (·.mem) e fun _ hk _ _ w => by
    cases w with
    | store => exact absurd hk h
    | _ => rfl

theorem exec_keeps_schedule (h : ¬ MayWrite i .schedule) :
    t.cipher.sched = s.cipher.sched ∧ t.cipher.tvalid = s.cipher.tvalid :=
  Prod.mk.inj <| exec_keeps (fun s => (s.cipher.sched, s.cipher.tvalid)) e fun _ hk _ _ w => by
    cases w with
    | schedule => exact absurd hk h
    | _ => rfl

theorem exec_keeps_blk (h : ¬ MayWrite i .blk) : t.cipher.blk0 = s.cipher.blk0 ∧ t.cipher.blk1 = s.cipher.blk1 :=
  Prod.mk.inj <| exec_keeps (fun s => (s.cipher.blk0, s.cipher.blk1)) e fun _ hk _ _ w => by
    cases w with
    | blk => exact absurd hk h
    | _ => rfl

/-- Without the counter's steps, SES is kept but for SES.CNT. -/
theorem exec_keeps_session_but_counter (h : ¬ MayWrite i .session) :
    t.command.svalid = s.command.svalid ∧ { t.command.ses with cnt := s.command.ses.cnt } = s.command.ses := by
  obtain ⟨hv, hs⟩ := Prod.mk.inj <| exec_keeps (fun s => (s.command.svalid, { s.command.ses with cnt := 0 }))
    e fun _ hk _ _ w => by
      cases w with
      | session => exact absurd hk h
      | _ => rfl
  exact ⟨hv, congrArg (fun x => { x with cnt := s.command.ses.cnt }) hs⟩

theorem exec_keeps_session (h : ¬ MayWrite i .session) (h' : ¬ MayWrite i .counter) :
    t.command.svalid = s.command.svalid ∧ t.command.ses = s.command.ses :=
  Prod.mk.inj <| exec_keeps (fun s => (s.command.svalid, s.command.ses)) e fun _ hk _ _ w => by
    cases w with
    | session => exact absurd hk h
    | counter => exact absurd hk h'
    | _ => rfl

theorem exec_keeps_frames (h : ¬ MayWrite i .frames) :
    t.command.pframe = s.command.pframe ∧ t.command.eframe = s.command.eframe :=
  Prod.mk.inj <| exec_keeps (fun s => (s.command.pframe, s.command.eframe)) e fun _ hk _ _ w => by
    cases w with
    | frames => exact absurd hk h
    | _ => rfl

theorem exec_keeps_phase (hg : ¬ MayWrite i .geometry) (hc : ¬ MayWrite i .chipid) (hp : ¬ MayWrite i .phase) :
    t.seq.phase = s.seq.phase ∧ t.seq.secid = s.seq.secid ∧ t.seq.smallgeo = s.seq.smallgeo ∧
      t.seq.idMismatch = s.seq.idMismatch := by
  have key := exec_keeps (fun s => (s.seq.phase, s.seq.secid, s.seq.smallgeo, s.seq.idMismatch)) e
    fun _ hk _ _ w => by
      cases w with
      | geometry => exact absurd hk hg
      | chipid => exact absurd hk hc
      | phase => exact absurd hk hp
      | _ => rfl
  simp only [Prod.mk.injEq] at key
  exact key

theorem exec_keeps_answers (ha : ¬ MayWrite i .answers) (hm : ¬ MayWrite i .mismatch) :
    t.seq.resp0 = s.seq.resp0 ∧ t.seq.resp1 = s.seq.resp1 ∧ t.seq.respMismatch = s.seq.respMismatch := by
  have key := exec_keeps (fun s => (s.seq.resp0, s.seq.resp1, s.seq.respMismatch)) e
    fun _ hk _ _ w => by
      cases w with
      | answers => exact absurd hk ha
      | mismatch => exact absurd hk hm
      | _ => rfl
  simp only [Prod.mk.injEq] at key
  exact key

theorem exec_keeps_area (h : ¬ MayWrite i .area) : t.area = s.area :=
  exec_keeps (·.area) e fun _ hk _ _ w => by
    cases w with
    | area => exact absurd hk h
    | _ => rfl

theorem exec_keeps_aesin : t.aes.aesin = s.aes.aesin :=
  exec_keeps (·.aes.aesin) e fun _ _ _ _ w => by cases w <;> rfl

theorem exec_keeps_aes (h : ¬ MayWrite i .aesResult) : t.aes = s.aes :=
  exec_keeps (·.aes) e fun _ hk _ _ w => by
    cases w with
    | aesResult => exact absurd hk h
    | _ => rfl

theorem exec_keeps_transport (h : ¬ MayWrite i .transfer) : t.transport = s.transport :=
  exec_keeps (·.transport) e fun _ hk _ _ w => by
    cases w with
    | transfer => exact absurd hk h
    | _ => rfl

end Kept

/-- Settles O55: the parameters, the inputs and the inbox are in no kind of write. -/
theorem operationsLeaveParametersAndInputs : Obligations.OperationsLeaveParametersAndInputs :=
  fun _ _ _ => exec_keeps_outside

/-- The log and the trace grow and a set mismatch bit stays set, from `s` to `t`. -/
structure Accumulates (s t : State) : Prop where
  log : s.log <+: t.log
  trace : s.trace <+: t.trace
  idMismatch : s.seq.idMismatch = true → t.seq.idMismatch = true
  respMismatch : s.seq.respMismatch = true → t.seq.respMismatch = true

theorem Accumulates.of_eq {s t : State} (log : t.log = s.log) (trace : t.trace = s.trace) (seq : t.seq = s.seq) :
    Accumulates s t := ⟨by rw [log], by rw [trace], by rw [seq]; exact id, by rw [seq]; exact id⟩

theorem accumulates_closed : Closed Accumulates Accumulates where
  refl _ := .of_eq rfl rfl rfl
  trans _ _ _ x y := ⟨x.log.trans y.log, x.trace.trans y.trace, fun h => y.idMismatch (x.idMismatch h),
    fun h => y.respMismatch (x.respMismatch h)⟩
  env _ _ := .of_eq rfl rfl rfl
  trace _ c := ⟨List.prefix_rfl, List.prefix_append _ [c], id, id⟩
  dev _ _ := .of_eq rfl rfl rfl
  log _ e := ⟨List.prefix_append _ [e], List.prefix_rfl, id, id⟩
  nearer _ _ _ := .of_eq rfl rfl rfl
  answers _ _ _ x := ⟨x.log, x.trace, x.idMismatch, x.respMismatch⟩
  hangs _ _ _ x _ := ⟨x.log, x.trace, x.idMismatch, x.respMismatch⟩

/-- A mismatch bit is written by setting it or leaving it. -/
theorem accumulates_wrote {k : WriteKind} {s t : State} (w : Wrote k s t) : Accumulates s t := by
  cases w with
  | chipid w b => exact ⟨List.prefix_rfl, List.prefix_rfl, fun h => by simp [h], id⟩
  | mismatch b => exact ⟨List.prefix_rfl, List.prefix_rfl, id, fun h => by simp [h]⟩
  | geometry | phase | answers => exact ⟨List.prefix_rfl, List.prefix_rfl, id, id⟩
  | _ => exact .of_eq rfl rfl rfl

/-- Settles O56: the log, the trace and the mismatch bits are written by appending and by setting only. -/
theorem logGrowsAndMismatchesStick : Obligations.LogGrowsAndMismatchesStick := by
  intro i s t e
  obtain ⟨log, trace, id, resp⟩ := accumulates_closed.exec (writes_of_kindRespects fun _ _ _ _ => accumulates_wrote) e
  exact ⟨log, trace, id, resp⟩

/-- Settles O57: stores are CTR.XFER's, and only with a destination. -/
theorem onlyTransfersWriteHostMemory : Obligations.OnlyTransfersWriteHostMemory := by
  intro i s t e only a
  have noStore : ¬ MayWrite i .store := by
    cases i with
    | ctrXfer c0 c1 c2 c3 pagesize blocks dv dest =>
      have hd : dv = 0 := only
      simp [MayWrite, hd]
    | _ => simp [MayWrite]
  rw [exec_keeps_mem e noStore]

/-- Settles O58: each part is a row of the table of writes. -/
theorem onlySchedulesWriteTheTable : Obligations.OnlySchedulesWriteTheTable := by
  intro i s t e
  refine ⟨?_, ?_, ?_, ?_⟩
  · cases i with
    | ksInit | ksLight | ksFull | saDecrypt | ntrUnlock => trivial
    | _ => exact exec_keeps_schedule e (by simp [MayWrite])
  · cases i with
    | k1Enc | k1Dec => trivial
    | _ => exact exec_keeps_blk e (by simp [MayWrite])
  · cases i with
    | sesSeed | ntrUnlock => trivial
    | cmdBuild | cmdActsec | cmdChipid | cmdSecread | cmdDatamode | frameActivateSec | frameSecureChipid
    | frameSecureRead | frameDataMode => exact exec_keeps_session_but_counter e (by simp [MayWrite])
    | _ => exact exec_keeps_session e (by simp [MayWrite]) (by simp [MayWrite])
  · cases i with
    | ntrUnlock | cmdActkey1 | cmdBuild | cmdActsec | cmdChipid | cmdSecread | cmdDatamode | frameActivateKey1G0
    | frameActivateKey1G1 | frameActivateSec | frameSecureChipid | frameSecureRead | frameDataMode => trivial
    | _ => exact exec_keeps_frames e (by simp [MayWrite])

/-- Settles O59: each part is a row of the table of writes. -/
theorem onlyNtrUnlockMovesThePhase : Obligations.OnlyNtrUnlockMovesThePhase := by
  intro i s t e
  refine ⟨fun other => ?_, fun other => ?_, ?_⟩
  · cases i with
    | ntrUnlock gen => exact absurd rfl (other gen)
    | _ => exact exec_keeps_phase e (by simp [MayWrite]) (by simp [MayWrite]) (by simp [MayWrite])
  · cases i with
    | ctrUnlock dev => exact absurd rfl (other dev)
    | _ => exact exec_keeps_answers e (by simp [MayWrite]) (by simp [MayWrite])
  · cases i with
    | saDecrypt | ntrUnlock | frameDataRead => trivial
    | _ => exact exec_keeps_area e (by simp [MayWrite])

/-- Settles O60: AESIN is in no kind of write, the rest of the unit and the transfer registers each in one. -/
theorem onlySessionsWriteTheAesUnit : Obligations.OnlySessionsWriteTheAesUnit := by
  intro i s t e
  refine ⟨exec_keeps_aesin e, fun other => ?_, ?_⟩
  · cases i with
    | aesSession dev => exact absurd rfl (other dev).1
    | ctrUnlock dev => exact absurd rfl (other dev).2
    | _ => exact exec_keeps_aes e (by simp [MayWrite])
  · cases i with
    | ctrXfer | ctrSend | ctrUnlock => trivial
    | _ => exact exec_keeps_transport e (by simp [MayWrite])

end Sys2Proof.Machine
end

section
/-! PROOFS. One step (10_state.md R26): what it does with each event of the host, and everything it can do. With it the
statements about requests, writes, read ports and the reset. -/

namespace Sys2Proof.Machine

/-- The host events that ask for nothing to be carried out. -/
def HostEvent.asksNothing : HostEvent → Bool
  | .request _ | .frame _ | .call _ | .cut _ _ _ => false
  | _ => true

section Fetched

variable {s : State} {rest : List HostEvent}

theorem step_request {r : Request} (hung : s.hung = none) (inbox : s.inbox = .request r :: rest) :
    step s = runDecoded (readRequest s.cfg r) (s.setInbox rest) := by
  simp only [step, fetch, hung, inbox, runOperation, State.setInbox_cfg]

theorem step_frame {f : Frame} (hung : s.hung = none) (inbox : s.inbox = .frame f :: rest) :
    step s = runDecoded (decodeFrame f) (s.setInbox rest) := by
  simp only [step, fetch, hung, inbox, runOperation]

theorem step_call {c : HostCall} (hung : s.hung = none) (inbox : s.inbox = .call c :: rest) :
    step s = perform (callByHand c) (s.setInbox rest) := by
  simp only [step, fetch, hung, inbox, runOperation]

theorem step_cut {o : Operation} {n : Nat} {e : Env} (hung : s.hung = none) (inbox : s.inbox = .cut o n e :: rest) :
    step s = .next (cutShort o n e (s.setInbox rest)) := by
  simp only [step, fetch, hung, inbox]

theorem step_reset {e : Env} (inbox : s.inbox = .reset e :: rest) : step s = .next (resetEvent e (s.setInbox rest)) := by
  cases hung : s.hung <;> simp only [step, fetch, hung, inbox, hostEvent]

theorem step_idle (hung : s.hung = none) (inbox : s.inbox = []) : step s = .next s := by
  simp only [step, fetch, hung, inbox]

theorem step_hung {w : Wait} (hung : s.hung = some w) (noReset : ∀ e, s.inbox.head? ≠ some (.reset e)) :
    step s = .fault (.hang w) := by
  cases inbox : s.inbox with
  | nil => simp only [step, fetch, hung, inbox]
  | cons e rest =>
    cases e with
    | reset env => exact absurd (by rw [inbox]; rfl) (noReset env)
    | _ => simp only [step, fetch, hung, inbox]

/-- A host event that asks for nothing to be carried out is carried out itself. -/
theorem step_asksNothing {e : HostEvent} (plain : e.asksNothing = true) (hung : s.hung = none)
    (inbox : s.inbox = e :: rest) : step s = .next (hostEvent e (s.setInbox rest)) := by
  cases e with
  | request | frame | call | cut => cases plain
  | _ => simp only [step, fetch, hung, inbox]

/-- Everything a step that answers a next state can do: wait; carry out an operation; carry out another host event, in a
hang the reset only. -/
theorem step_next_cases {t : State} (h : step s = .next t) :
    t = s ∨
    (s.hung = none ∧ ∃ o rest, runOperation o (s.setInbox rest) = .next t) ∨
    (s.hung = none ∧ ∃ o n e rest, t = cutShort o n e (s.setInbox rest)) ∨
    (∃ e rest, (s.hung = none ∨ ∃ env, e = .reset env) ∧ t = hostEvent e (s.setInbox rest)) := by
  unfold step at h
  cases hung : s.hung with
  | some w =>
    unfold fetch at h
    rw [hung] at h
    cases inbox : s.inbox with
    | nil => simp [inbox] at h
    | cons e rest =>
      cases e with
      | reset env => simp only [inbox, Host.Outcome.next.injEq] at h; exact .inr (.inr (.inr ⟨_, _, .inr ⟨env, rfl⟩, h.symm⟩))
      | _ => simp [inbox] at h
  | none =>
    unfold fetch at h
    rw [hung] at h
    cases inbox : s.inbox with
    | nil => simp only [inbox, Host.Outcome.next.injEq] at h; exact .inl h.symm
    | cons e rest =>
      cases e with
      | request r => simp only [inbox] at h; exact .inr (.inl ⟨rfl, _, _, h⟩)
      | frame f => simp only [inbox] at h; exact .inr (.inl ⟨rfl, _, _, h⟩)
      | call c => simp only [inbox] at h; exact .inr (.inl ⟨rfl, _, _, h⟩)
      | cut o n e => simp only [inbox, Host.Outcome.next.injEq] at h; exact .inr (.inr (.inl ⟨rfl, o, n, e, rest, h.symm⟩))
      | _ => simp only [inbox, Host.Outcome.next.injEq] at h; exact .inr (.inr (.inr ⟨_, rest, .inl rfl, h.symm⟩))

end Fetched

/-- A primitive called by hand writes the environment's side only. -/
theorem callByHand_respects {R : State → State → Prop} (h : Steady R) (c : HostCall) : (callByHand c).Respects R := by
  cases c with
  | sendEframe n => exact h.bind (h.readReg _ _) fun _ => h.bind (h.ntrSend _ _) fun _ => h.pure _
  | readSector a n => exact h.bind (h.sectorRead _ _) fun _ => h.pure _
  | seedWrite x y => exact h.bind (h.seedWrite _ _) fun _ => h.pure _
  | ctrSecKey v => exact h.bind (h.ctrSecKey _) fun _ => h.pure _
  | ctrSecSeed q => exact h.bind (h.ctrSecSeed _) fun _ => h.pure _
  | delay t => exact h.bind (h.delay _) fun _ => h.pure _

/-- What the block carries out is an instruction or a primitive called by hand. -/
theorem runOperation_next_cases {o : Operation} {s t : State} (h : runOperation o s = .next t) :
    (∃ i, exec i s = .next t) ∨ ∃ c, perform (callByHand c) s = .next t := by
  have decoded : ∀ {d}, runDecoded d s = .next t → ∃ i, exec i s = .next t := by
    intro d hd
    cases d with
    | ok i => exact ⟨i, hd⟩
    | error why => cases hd
  cases o with
  | request r => exact .inl (decoded h)
  | frame f => exact .inl (decoded h)
  | call c => exact .inr ⟨c, h⟩

/-- What the block carries out relates the states before and after by every relation that every instruction's writes
respect. -/
theorem Closed.runOperation {R E : State → State → Prop} (closed : Closed R E) (w : ∀ i, Writes R i) {o : Operation}
    {s t : State} (h : runOperation o s = .next t) : E s t := by
  obtain ⟨i, hi⟩ | ⟨c, hc⟩ := runOperation_next_cases h
  · exact closed.exec (w i) hi
  · exact closed.perform (callByHand_respects closed.toSteady c) hc

/-- The parameters, the inputs and the inbox are in no kind of write. -/
theorem runOperation_keeps_outside {o : Operation} {s t : State} (h : runOperation o s = .next t) :
    t.cfg = s.cfg ∧ t.inputs = s.inputs ∧ t.inbox = s.inbox := by
  have key := (closed_of_elements fun s => (s.cfg, s.inputs, s.inbox)).runOperation
    (fun _ => writes_of_kindRespects fun _ _ _ _ w => by cases w <;> rfl) h
  simp only [Prod.mk.injEq] at key
  exact key

/-- What holds before an operation and after every operation that answers holds where the reset finds the block. -/
theorem reached_of {P : State → Prop} {r : Host.Outcome State Fault Refusal} {s : State} (before : P s)
    (after : ∀ t, r = .next t → P t) : P (reached r s) := by
  cases r with
  | next t => exact after t rfl
  | fault | refused => exact before

theorem cutShort_inbox (o : Operation) (n : Nat) (e : Env) (s : State) : (cutShort o n e s).inbox = s.inbox :=
  reached_of (P := fun t => t.inbox = s.inbox) rfl fun _ h => (runOperation_keeps_outside h).2.2

theorem encode_spelledUnder (cfg : Config) (i : Instr) :
    (spelledUnder cfg i = i ∨ ∃ op blk, spelledUnder cfg i = .cmdBuild op blk) ∧
      encode (spelledUnder cfg i) = encode i := by
  have spelled : ∀ {c : Prop} [Decidable c] {row : Instr} {op : BitVec 8} {blk : BitVec 16},
      encode (.cmdBuild op blk) = encode row →
      ((if c then row else .cmdBuild op blk) = row ∨ ∃ op' blk', (if c then row else .cmdBuild op blk) = .cmdBuild op' blk') ∧
        encode (if c then row else .cmdBuild op blk) = encode row := by
    intro c _ row op blk same
    by_cases hc : c
    · rw [if_pos hc]; exact ⟨.inl rfl, rfl⟩
    · rw [if_neg hc]; exact ⟨.inr ⟨op, blk, rfl⟩, same⟩
  cases i with
  | cmdActsec | cmdChipid | cmdDatamode => exact spelled (by decide)
  | cmdSecread blk => exact spelled rfl
  | _ => exact ⟨.inl rfl, rfl⟩

theorem spelledUnder_default {cfg : Config} (activateSec : cfg.opActivateSec = 0x40)
    (secureChipid : cfg.opSecureChipid = 0x10) (secureRead : cfg.opSecureRead = 0x20) (dataMode : cfg.opDataMode = 0xA0)
    (i : Instr) : spelledUnder cfg i = i := by
  cases i with
  | cmdActsec => exact if_pos activateSec
  | cmdChipid => exact if_pos secureChipid
  | cmdSecread => exact if_pos secureRead
  | cmdDatamode => exact if_pos dataMode
  | _ => rfl

/-- Settles O5. -/
theorem stepRunsDecodedInstruction : Obligations.StepRunsDecodedInstruction := by
  intro s rest hung
  refine ⟨fun r i inbox read => ?_, encode_spelledUnder s.cfg, spelledUnder_default, fun f i inbox read => ?_,
    fun r why inbox read => ?_, fun f why inbox read => ?_⟩
  · rw [step_request hung inbox, readRequest, read]; rfl
  · rw [step_frame hung inbox, read]; rfl
  · rw [step_request hung inbox, readRequest, read]; rfl
  · rw [step_frame hung inbox, read]; rfl

/-- R40's table at the read ports: the flags and PHASE are 0, all else holds no value. -/
theorem resetEvent_portValue (e : Env) (s : State) (p : Port) :
    portValue (resetEvent e s) p =
      match p with
      | .tvalid | .svalid | .macv | .phase | .smallgeo | .idMismatch | .respMismatch => some 0
      | _ => none := by
  cases p with
  | blk i | resp i => simp [portValue, CipherUnit.reset, Sequencer.reset, portReg, Reg.unwritten]
  | sa i => simp [portValue, Area.reset, portReg, Reg.unwritten]
  | aesin i => simp [portValue, AesUnit.reset, portReg, Reg.unwritten]
  | _ => rfl

/-- Settles O7: a reset between operations and one in the middle of an operation are the same reset event, of another
state. -/
theorem resetLeavesTheStateOfR40 : Obligations.ResetLeavesTheStateOfR40 := by
  intro s e rest event
  obtain ⟨u, stepped, inbox⟩ : ∃ u, step s = .next (resetEvent e u) ∧ u.inbox = rest := by
    obtain inbox | ⟨hung, o, n, inbox⟩ := event
    · exact ⟨_, step_reset inbox, rfl⟩
    · exact ⟨_, step_cut hung inbox, cutShort_inbox o n e (s.setInbox rest)⟩
  refine ⟨resetEvent e u, stepped, resetEvent_portValue e u, rfl, rfl, rfl, rfl, inbox, rfl, rfl, rfl, rfl, rfl, rfl,
    fun done => ?_⟩
  exact step_idle rfl (inbox.trans done)

theorem portValue_setInbox (s : State) (rest : List HostEvent) (p : Port) :
    portValue (s.setInbox rest) p = portValue s p := by
  cases p <;> rfl

/-- Settles O10. -/
theorem readPortsHaveNoSideEffect : Obligations.ReadPortsHaveNoSideEffect := by
  intro s rest hung
  refine ⟨fun p v inbox value => ?_, fun p inbox value => ?_, fun inbox => ?_⟩
  · rw [step_asksNothing rfl hung inbox, hostEvent, readPort, portValue_setInbox, value]
  · rw [step_asksNothing rfl hung inbox, hostEvent, readPort, portValue_setInbox, value]
    rfl
  · rw [step_asksNothing rfl hung inbox]
    rfl

/-- `CtrSecKey` in an environment that answers: the call, its wait, the device register. -/
theorem ctrSecKey_answers (v : Nat) {s : State} (h : s.promptAccepts) :
    ctrSecKey v s = .ok ()
      (((s.setTrace (s.trace ++ [.ctrSecKey v])).setEnv s.env.afterAccept).setDev { s.dev with secKey := v }) := by
  have waited := (awaitAccept_answers .ctrSecKey (s := s.setTrace (s.trace ++ [.ctrSecKey v])) h).1
  unfold ctrSecKey
  rw [Op.bind_ok (call_apply _ h.2.1), Op.bind_ok waited]
  exact effect_apply h.2.1

theorem ctrSecSeed_answers (q : Quad) {s : State} (h : s.promptAccepts) :
    ctrSecSeed q s = .ok ()
      (((s.setTrace (s.trace ++ [.ctrSecSeed q])).setEnv s.env.afterAccept).setDev { s.dev with secSeed := q }) := by
  have waited := (awaitAccept_answers .ctrSecSeed (s := s.setTrace (s.trace ++ [.ctrSecSeed q])) h).1
  unfold ctrSecSeed
  rw [Op.bind_ok (call_apply _ h.2.1), Op.bind_ok waited]
  exact effect_apply h.2.1

/-- `NtrSend(EFRAME, n)` by hand when no frame has been built. -/
theorem sendByHand_unbuilt (n : Nat) {s : State} (h : s.command.eframe.written = false) :
    sendByHand n s = .error (.event (.uninit (.port .eframe))) s := by
  unfold sendByHand
  rw [Op.bind_error (readReg_apply _ _ _ |>.trans (by rw [h]; rfl))]

theorem sendByHand_answers (n : Nat) {s : State} (h : s.command.eframe.written = true) (hp : s.promptReplies) :
    sendByHand n s = .ok (.bytes (s.env.replyAt 0 n)) (afterSend s.command.eframe.val n s) := by
  unfold sendByHand
  rw [Op.bind_ok (readReg_written (f := (·.command.eframe)) _ h), Op.bind_ok (ntrSend_answers _ n hp)]
  rfl

theorem sectorRead_answers (a : Word) (n : Nat) {s : State} (hp : s.promptReplies) :
    sectorRead a n s = .ok (s.env.replyAt 0 n) (afterSend (readFrame s.cfg a) n s) := by
  unfold sectorRead
  rw [Op.bind_ok (peek_apply _ _), ntrSend_answers _ n hp]

/-- Settles O11. -/
theorem hostWritesLand : Obligations.HostWritesLand := by
  intro s rest hung
  have byHand {c : HostCall} {r : Response} {t : State} (inbox : s.inbox = .call c :: rest)
      (answered : callByHand c (s.setInbox rest) = .ok r t) : step s = .next (t.setResponse (some r)) := by
    rw [step_call hung inbox, perform_ok answered]
  refine ⟨fun i w inbox => step_asksNothing rfl hung inbox, fun i w inbox => step_asksNothing rfl hung inbox,
    fun w inbox => step_asksNothing rfl hung inbox, fun n inbox => step_asksNothing rfl hung inbox,
    fun n inbox => step_asksNothing rfl hung inbox, fun w inbox => step_asksNothing rfl hung inbox,
    fun w inbox => step_asksNothing rfl hung inbox, ?_, ?_, ?_, ?_, ?_, ?_, ?_⟩
  · intro n inbox unbuilt
    rw [step_call hung inbox]
    exact perform_error (sendByHand_unbuilt n (s := s.setInbox rest) unbuilt)
  · exact fun n inbox built prompt => byHand inbox (sendByHand_answers n (s := s.setInbox rest) built prompt)
  · exact fun a n inbox prompt => byHand inbox (Op.bind_ok (sectorRead_answers a n (s := s.setInbox rest) prompt))
  · exact fun x y inbox uncut => byHand inbox (Op.bind_ok (effect_apply (s := s.setInbox rest) uncut))
  · exact fun v inbox prompt => byHand inbox (Op.bind_ok (ctrSecKey_answers v (s := s.setInbox rest) prompt))
  · exact fun q inbox prompt => byHand inbox (Op.bind_ok (ctrSecSeed_answers q (s := s.setInbox rest) prompt))
  · exact fun n inbox uncut => byHand inbox (Op.bind_ok (delay_apply n (s := s.setInbox rest) uncut))

end Sys2Proof.Machine
end

section
/-! PROOFS. What the units' operations answer, in the terms of the statements (Safety.lean): the schedule, the session's
draws, the frames a build leaves, and the first steps of NTR.UNLOCK. -/

namespace Sys2Proof.Machine

/-- One pass with its scaling (41_key_schedule.md R140, R144, R147). -/
theorem passesFrom_succ (cfg : Config) (n p : Nat) (x : Schedule) :
    passesFrom cfg.ksXorSlots cfg.ksScaleAfterPass (n + 1) p x =
      passesFrom cfg.ksXorSlots cfg.ksScaleAfterPass n (p + 1) (specPass cfg p x) := by
  simp only [passesFrom, specPass, applyPass, scaleKeyCode, shl1, shr1]

/-- KsInit's passes, counted out (R140, R148). -/
theorem ksSchedule_eq_specSchedule (cfg : Config) (base : Table) (code : Word) (stage : BitVec 1) :
    ksSchedule cfg base code stage = specSchedule cfg base code stage := by
  obtain rfl | rfl : stage = 0 ∨ stage = 1 := by
    revert stage
    decide
  · rw [ksSchedule, show passCount 0 = 1 + 1 from rfl, passesFrom_succ, passesFrom_succ, passesFrom, specSchedule, if_pos rfl,
      loadBase, deriveKeyCode, shr1, shl1]
  · rw [ksSchedule, show passCount 1 = 2 + 1 from rfl, passesFrom_succ, passesFrom_succ, passesFrom_succ, passesFrom,
      specSchedule, if_neg (by decide), loadBase, deriveKeyCode, shr1, shl1]

/-- The state after KsInit (R140). -/
theorem scheduled_eq (base : Table) (code : Word) (stage : BitVec 1) (s : State) :
    scheduled base code stage s =
      s.setCipher { s.cipher with sched := specSchedule s.cfg base code stage, tvalid := true } := by
  rw [scheduled, ksSchedule_eq_specSchedule]

/-- SES.SEED: six draws (42_ntr_command.md R160). -/
theorem sesSeed_apply (s : State) :
    sesSeed s = .ok ()
      ((s.setEnv (s.env.afterDraws 6)).setCommand { s.command with ses := s.env.session, svalid := true }) := by
  unfold sesSeed
  rw [Op.bind_ok (draw_apply _), Op.bind_ok (draw_apply _), Op.bind_ok (draw_apply _), Op.bind_ok (draw_apply _),
    Op.bind_ok (draw_apply _), Op.bind_ok (draw_apply _), change_apply]
  simp only [State.setEnv_env, State.setEnv_command, State.setEnv_setEnv, Env.session, Env.drawAt, Env.afterDraws]

/-- The state after CMD.ACTKEY1 without its response: one draw and the two frame registers (R161). -/
def actKey1Built (gen : BitVec 1) (s : State) : State :=
  (s.setEnv s.env.afterDraw).setCommand
    { s.command with pframe := .holding (specActKey1 s gen), eframe := .holding (specActKey1 s gen) }

theorem actKey1_apply (gen : BitVec 1) {s : State} (h : s.command.svalid = true) :
    actKey1 gen s = .ok () (actKey1Built gen s) := by
  unfold actKey1
  rw [Op.bind_ok (needSession_valid h), Op.bind_ok (peek_apply _ _), Op.bind_ok (draw_apply _)]
  rfl

/-- SelectPair and SelectBlock write out R94's layout (R163, R164). -/
theorem nextCommandFrame_eq_specFrame (op : BitVec 8) (blk : BitVec 16) (s : State) :
    nextCommandFrame op blk s = specFrame s op blk := by
  simp only [nextCommandFrame, commandFrame, pack, selectBlock, selectPair, specFrame, apply_ite Prod.fst,
    apply_ite Prod.snd]

/-- The state after CMD.BUILD without its response: the two frame registers and SES.CNT (R162). -/
def commandBuilt (op : BitVec 8) (blk : BitVec 16) (s : State) : State :=
  s.setCommand
    { s.command with
      ses := { s.command.ses with cnt := countAfter s.cfg op s.command.ses.cnt }
      pframe := .holding (specFrame s op blk)
      eframe := .holding (specSeal s.cipher.sched.t (specFrame s op blk)) }

theorem cmdBuild_apply (op : BitVec 8) (blk : BitVec 16) {s : State} (h : s.canBuild) :
    cmdBuild op blk s = .ok () (commandBuilt op blk s) := by
  unfold cmdBuild
  rw [Op.bind_ok (needSession_valid h.1), Op.bind_ok (needTable_valid h.2), Op.bind_ok (peek_apply _ _),
    Op.bind_ok (peek_apply _ _), nextCommandFrame_eq_specFrame]
  rfl

/-- SMALLGEO from IDWORD (46_unlock_sequences.md R242). -/
def geometrySet (s : State) : State := s.setSeq { s.seq with smallgeo := !s.inputs.idword.val.getLsbD 31 }

theorem setGeometry_apply {s : State} (h : s.inputs.idword.written = true) : setGeometry s = .ok () (geometrySet s) := by
  unfold setGeometry readIdword
  rw [Op.bind_ok (readReg_written (f := (·.inputs.idword)) _ h)]
  rfl

/-- The state after Setup of NTR.UNLOCK: SMALLGEO, the LIGHT schedule, the session of six draws (R242). -/
def setUp (base : Table) (s : State) : State :=
  (((geometrySet s).setCipher
      { s.cipher with sched := specSchedule s.cfg base s.inputs.gamecode.val 0, tvalid := true }).setEnv
    (s.env.afterDraws 6)).setCommand { s.command with ses := s.env.session, svalid := true }

theorem setup_apply (base : Table) {s : State} (hid : s.inputs.idword.written = true)
    (hcode : s.inputs.gamecode.written = true) : setup base s = .ok () (setUp base s) := by
  unfold setup ksInit
  rw [Op.bind_ok (setGeometry_apply hid),
    Op.bind_ok (readReg_written (s := geometrySet s) (f := (·.inputs.gamecode)) _ hcode), Op.bind_ok (change_apply _ _),
    scheduled_eq, sesSeed_apply]
  rfl

/-- IDWORD is the first input that Setup reads. -/
theorem setup_no_idword (base : Table) {s : State} (hid : s.inputs.idword.written = false) :
    setup base s = .error (.event (.uninit .idword)) s := by
  unfold setup setGeometry readIdword
  rw [Op.bind_error (Op.bind_error (by rw [readReg_apply, hid]; rfl))]

/-- HDR.GAMECODE is the second, SMALLGEO being written before. -/
theorem setup_no_gamecode (base : Table) {s : State} (hid : s.inputs.idword.written = true)
    (hcode : s.inputs.gamecode.written = false) :
    setup base s = .error (.event (.uninit .gamecode)) (geometrySet s) := by
  have hcode' : (geometrySet s).inputs.gamecode.written = false := hcode
  unfold setup
  rw [Op.bind_ok (setGeometry_apply hid), Op.bind_error (by rw [readReg_apply, hcode']; rfl)]

end Sys2Proof.Machine
end

section
/-! PROOFS. The invariant (`State.Inv`), part by part: host memory and the transfer registers; the registers that are
written together; what holds past Raw; the silence of a hang; the reset on its way. Each part is kept by every operation,
and the invariant by every step. -/

namespace Sys2Proof.Machine

/-- `P` holds after an operation when it held before. -/
def Preserves (P : State → Prop) (s t : State) : Prop := P s → P t

/-- A property of the elements is closed under all that an operation does besides its writes. -/
theorem closed_of_property (P : Elements → Prop) :
    Closed (Preserves fun s => P s.elements) (Preserves fun s => P s.elements) :=
  Closed.of_imp (p := fun s => P s.elements) (fun _ _ => id) (fun _ _ => id) (fun _ _ => id) (fun _ _ => id)
    (fun _ _ => id) (fun _ _ => id) (fun _ _ _ => id)

/-! Host memory and the transfer registers (20_memory.md R60, 10_state.md R33). -/

/-- Host memory is in its canonical form and the transfer registers are one transfer's. -/
def Elements.transferSound (s : Elements) : Prop := Memory.wf s.mem = true ∧ s.transport.sound s.cfg.pageCode

theorem legalPage_mod {n : Nat} (h : legalPage n) : n % 4 = 0 := by
  rcases h with rfl | rfl | rfl | rfl | rfl | rfl | rfl <;> rfl

/-- The registers a transfer sets are sound (R210 to R213). -/
theorem transferRegs_sound (cfg : Config) (c : Quad) {pagesize blocks : Word}
    (fits : transferLength pagesize blocks < 2 ^ 32) : (transferRegs cfg c pagesize blocks).sound cfg.pageCode := by
  refine ⟨⟨rfl, rfl, rfl, rfl, rfl⟩, fun _ => ⟨legalPage_pageClass pagesize, rfl, ?_, ?_, Nat.zero_le _, rfl⟩⟩
  · show 1 ≤ (minOneBlock blocks).toNat
    unfold minOneBlock
    split
    · decide
    · rename_i h
      have : blocks.toNat ≠ 0 := fun z => h (BitVec.eq_of_toNat_eq z)
      omega
  · show (BitVec.ofNat 32 (transferLength pagesize blocks)).toNat = _
    rw [BitVec.toNat_ofNat, Nat.mod_eq_of_lt fits]
    rfl

/-- Counting a popped word of an incomplete transfer leaves its registers sound (R215). -/
theorem counted_sound {codes : PageCodes} {s : State} (sound : s.transport.sound codes) (begun : s.transferring) :
    (counted s).transport.sound codes := by
  obtain ⟨written, lt⟩ := begun
  obtain ⟨together, values⟩ := sound
  obtain ⟨page, code, block, len, le, mod⟩ := values written
  have hlen : s.transport.xlen.val.toNat % 4 = 0 := by rw [len, Nat.mul_mod, legalPage_mod page]; simp
  have next : (s.transport.xcnt.val + 4).toNat = s.transport.xcnt.val.toNat + 4 := (missing_succ lt mod hlen).1
  rw [written] at together
  refine ⟨together, fun _ => ⟨page, code, block, len, ?_, ?_⟩⟩
  · show (s.transport.xcnt.val + 4).toNat ≤ s.transport.xlen.val.toNat
    omega
  · show (s.transport.xcnt.val + 4).toNat % 4 = 0
    omega

/-- The stores of a popped word keep the canonical form (R216). -/
theorem sinkSteps_wf {sink : Sink} {cnt w : Word} (hc : cnt.toNat % 4 = 0) {f : Memory → Memory}
    (hf : f ∈ sinkSteps sink cnt w) {m : Memory} (h : Memory.wf m = true) : Memory.wf (f m) = true := by
  cases sink with
  | discard | capture => cases hf
  | memory dest => exact storeSteps_wf hc hf h

theorem transferSound_writes (i : Instr) : Writes (Preserves fun s => s.elements.transferSound) i := by
  refine writes_of_kinds (fun w notTransfer notStore _ => ?_) fun _ c pagesize blocks sink _ fits => ⟨fun s h => ?_, ?_, ?_⟩
  · cases w with
    | transfer => exact absurd rfl notTransfer
    | store => exact absurd rfl notStore
    | _ => exact id
  · exact ⟨h.1, transferRegs_sound s.cfg c fits⟩
  · exact fun s w f begun hf h => ⟨sinkSteps_wf (h.2.2 begun.1).2.2.2.2.2 hf h.1, h.2⟩
  · exact fun s begun h => ⟨h.1, counted_sound h.2 begun⟩

theorem runOperation_keeps_transferSound {o : Operation} {s t : State} (h : runOperation o s = .next t) :
    s.elements.transferSound → t.elements.transferSound :=
  (closed_of_property Elements.transferSound).runOperation transferSound_writes h

/-! The registers that are written together (10_state.md R30, R32, R35). -/

/-- PFRAME and EFRAME are written together, MACV stands for an AESOUT and ST.IDMISMATCH for a SECID. -/
def Elements.paired (s : Elements) : Prop :=
  s.command.pframe.written = s.command.eframe.written ∧ (s.aes.macv = true → s.aes.aesout.written = true) ∧
    (s.seq.idMismatch = true → s.seq.secid.written = true)

theorem paired_wrote {k : WriteKind} {s t : State} (w : Wrote k s t) :
    Preserves (fun s => s.elements.paired) s t := by
  cases w with
  | frames => exact fun h => ⟨rfl, h.2⟩
  | aesResult => exact fun h => ⟨h.1, fun _ => rfl, h.2.2⟩
  | chipid => exact fun h => ⟨h.1, h.2.1, fun _ => rfl⟩
  | _ => exact id

theorem runOperation_keeps_paired {o : Operation} {s t : State} (h : runOperation o s = .next t) :
    s.elements.paired → t.elements.paired :=
  (closed_of_property Elements.paired).runOperation (fun _ => writes_of_kindRespects fun _ _ _ _ => paired_wrote) h

/-! What holds past Raw (10_state.md R34, 46_unlock_sequences.md R240). -/

/-- The table, the session and IDWORD are there: what Setup leaves. -/
def Elements.armed (s : Elements) : Prop :=
  s.cipher.tvalid = true ∧ s.command.svalid = true ∧ s.inputs.idword.written = true

/-- And a frame has been built: what StepActivateKey1 leaves. -/
def Elements.framed (s : Elements) : Prop := s.armed ∧ s.command.eframe.written = true

/-- Past Raw all of it is there. -/
def Elements.keyed (s : Elements) : Prop := s.seq.phase ≠ .raw → s.framed

theorem armed_wrote {k : WriteKind} {s t : State} (w : Wrote k s t) :
    Preserves (fun s => s.elements.armed) s t := by
  cases w with
  | schedule => exact fun h => ⟨rfl, h.2⟩
  | session => exact fun h => ⟨h.1, rfl, h.2.2⟩
  | _ => exact id

theorem framed_wrote {k : WriteKind} {s t : State} (w : Wrote k s t) :
    Preserves (fun s => s.elements.framed) s t := by
  cases w with
  | schedule => exact fun h => ⟨armed_wrote (.schedule ..) h.1, h.2⟩
  | session => exact fun h => ⟨armed_wrote (.session ..) h.1, h.2⟩
  | frames => exact fun h => ⟨h.1, rfl⟩
  | _ => exact id

/-- A write that does not move PHASE takes nothing away. -/
theorem keyed_wrote {k : WriteKind} {s t : State} (w : Wrote k s t) (notPhase : k ≠ .phase) :
    Preserves (fun s => s.elements.keyed) s t := by
  have same : t.seq.phase = s.seq.phase := by
    cases w with
    | phase => exact absurd rfl notPhase
    | _ => rfl
  exact fun h past => framed_wrote w (h (same ▸ past))

theorem Op.Respects.imp {α : Type} {R R' : State → State → Prop} {m : Op α} (hm : m.Respects R)
    (h : ∀ s t, R s t → R' s t) : m.Respects R' := fun s => Keeps.imp (h s) (hm s)

/-- Sequencing under a condition on the start: `Q` where the first part starts, `Q'` where the second does. -/
theorem Op.respects_bind_when {α β : Type} {P Q Q' : State → Prop} {m : Op α} {f : α → Op β}
    (hm : m.Respects (fun s t => Q s → P t)) (post : ∀ s a t, Q s → m s = .ok a t → Q' t)
    (hf : ∀ a, (f a).Respects (fun s t => Q' s → P t)) : (m >>= f).Respects (fun s t => Q s → P t) := by
  intro s
  cases h : m s with
  | error e t => rw [Op.bind_error h]; exact hm.error h
  | ok a t => rw [Op.bind_ok h]; exact Keeps.imp (fun u k q => k (post s a t q h)) (hf a t)

/-- The steps of NTR.UNLOCK after the activate-key1 frame is sent. -/
def afterKey1 : Op Unit := do
  putPhase .keyedRandom
  stepActivateSecure
  putPhase .secureKeyed
  stepSeed
  stepVerify
  stepDataMode
  putPhase .dataMode
  putPhase .reading
  stepValidationRead
  stepBulkRead

theorem afterSetup_eq (gen : BitVec 1) : Steady.afterSetup gen = (stepActivateKey1 gen >>= fun _ => afterKey1) := rfl

theorem afterKey1_keeps_framed : afterKey1.Respects (Preserves fun s => s.elements.framed) := by
  have h := (closed_of_property Elements.framed).toSteady
  have frames : FramesRespect (Preserves fun s => s.elements.framed) := fun _ _ _ => framed_wrote (.frames ..)
  have counter : CounterRespects (Preserves fun s => s.elements.framed) := fun _ _ => framed_wrote (.counter ..)
  have phase : ∀ p, (putPhase p).Respects (Preserves fun s => s.elements.framed) :=
    fun p _ => framed_wrote (.phase ..)
  exact h.bind (phase _) fun _ => h.bind (h.stepActivateSecure frames counter) fun _ => h.bind (phase _) fun _ =>
    h.bind h.stepSeed fun _ => h.bind (h.stepVerify frames counter fun _ _ _ => framed_wrote (.chipid ..)) fun _ =>
      h.bind (h.stepDataMode frames counter) fun _ => h.bind (phase _) fun _ => h.bind (phase _) fun _ =>
        h.bind h.stepValidationRead fun _ => h.stepBulkRead fun _ _ => framed_wrote (.area ..)

/-- Setup that runs to its end leaves the table, the session and IDWORD. -/
theorem setup_ok_armed {base : Table} {s t : State} {u : Unit} (h : setup base s = .ok u t) : t.elements.armed := by
  cases hid : s.inputs.idword.written with
  | false => rw [setup_no_idword base hid] at h; cases h
  | true =>
    cases hcode : s.inputs.gamecode.written with
    | false => rw [setup_no_gamecode base hid hcode] at h; cases h
    | true => rw [setup_apply base hid hcode] at h; cases h; exact ⟨rfl, rfl, hid⟩

/-- StepActivateKey1 that runs to its end has built a frame. -/
theorem stepActivateKey1_ok_framed {gen : BitVec 1} {s t : State} {u : Unit} (armed : s.elements.armed)
    (h : stepActivateKey1 gen s = .ok u t) : t.elements.framed := by
  have hst := (closed_of_property Elements.framed).toSteady
  unfold stepActivateKey1 at h
  rw [Op.bind_ok (actKey1_apply gen armed.2.1)] at h
  exact (hst.bind (hst.sendEframe 0) fun _ => hst.pure _).ok h ⟨armed, rfl⟩

/-- NTR.UNLOCK moves PHASE only after a frame is built, under a table and a session. -/
theorem ntrUnlock_keeps_keyed (gen : BitVec 1) (base : Table) :
    (ntrUnlock gen base).Respects (Preserves fun s => s.elements.keyed) := by
  have h := (closed_of_property Elements.keyed).toSteady
  rw [Steady.ntrUnlock_eq, afterSetup_eq]
  have setupKeeps : (setup base).Respects (Preserves fun s => s.elements.keyed) :=
    h.setup (fun _ _ => keyed_wrote (.geometry ..) nofun) (fun _ _ _ _ => keyed_wrote (.schedule ..) nofun)
      (fun _ _ => keyed_wrote (.session ..) nofun) base
  have key1Keeps : (stepActivateKey1 gen).Respects (Preserves fun s => s.elements.keyed) :=
    h.stepActivateKey1 (fun _ _ _ => keyed_wrote (.frames ..) nofun) gen
  refine Op.respects_bind_when (Q' := fun s => s.elements.armed ∧ s.elements.keyed) setupKeeps
    (fun s _ t keyed e => ⟨setup_ok_armed e, setupKeeps.ok e keyed⟩) fun _ => ?_
  refine Op.respects_bind_when (Q' := fun s => s.elements.framed) (key1Keeps.imp fun _ _ k q => k q.2)
    (fun _ _ _ q e => stepActivateKey1_ok_framed q.1 e) fun _ => ?_
  exact afterKey1_keeps_framed.imp fun _ _ k framed _ => k framed

theorem exec_keeps_keyed {i : Instr} {s t : State} (e : exec i s = .next t) : s.elements.keyed → t.elements.keyed := by
  have closed := closed_of_property Elements.keyed
  have others (noPhase : ¬ MayWrite i .phase) : s.elements.keyed → t.elements.keyed :=
    closed.exec (writes_of_kindRespects fun _ hk _ _ w => keyed_wrote w fun h => noPhase (h ▸ hk)) e
  cases i with
  | ntrUnlock gen =>
    simp only [exec, execNtrUnlock] at e
    split at e
    · exact Closed.withBase e fun base e =>
        closed.perform (closed.bind (ntrUnlock_keeps_keyed gen base) fun _ => closed.pure _) e
    · cases e
  | _ => exact others (by simp [MayWrite])

theorem runOperation_keeps_keyed {o : Operation} {s t : State} (h : runOperation o s = .next t) :
    s.elements.keyed → t.elements.keyed := by
  have closed := closed_of_property Elements.keyed
  obtain ⟨i, e⟩ | ⟨c, e⟩ := runOperation_next_cases h
  · exact exec_keeps_keyed e
  · exact closed.perform (callByHand_respects closed.toSteady c) e

/-! The silence of a hang (60_exceptions.md R281, R294) and the reset on its way (log 25). -/

/-- A block that hangs has given no response and has no bound on its waits. -/
def State.silentHang (s : State) : Prop := s.hung ≠ none → s.response = none ∧ s.cfg.pollBound = none

/-- While an operation runs `hung` stays as it is; the stop in a wait sets it without a response. -/
theorem silentHang_closed :
    Closed (fun s t => t.hung = s.hung) (fun s t => s.hung = none → t.silentHang) where
  refl _ := rfl
  trans _ _ _ x y := y.trans x
  env _ _ := rfl
  trace _ _ := rfl
  dev _ _ := rfl
  log _ _ := rfl
  nearer _ _ _ := rfl
  answers _ _ _ x awake hangs := absurd (x.trans awake) hangs
  hangs _ _ _ _ unbounded _ _ := ⟨rfl, unbounded⟩

theorem runOperation_silentHang {o : Operation} {s t : State} (h : runOperation o s = .next t) (awake : s.hung = none) :
    t.silentHang :=
  silentHang_closed.runOperation (fun _ => writes_of_kindRespects fun _ _ _ _ w => by cases w <;> rfl) h awake

theorem uncut_closed : Closed (Preserves fun s => s.resetIn = none) (Preserves fun s => s.resetIn = none) :=
  Closed.of_imp (p := fun s => s.resetIn = none) (fun _ _ => id) (fun _ _ => id) (fun _ _ => id) (fun _ _ => id)
    (fun _ _ => id) (fun _ _ => id) fun _ _ nearing uncut => by rw [uncut] at nearing; cases nearing

theorem runOperation_uncut {o : Operation} {s t : State} (h : runOperation o s = .next t) :
    s.resetIn = none → t.resetIn = none :=
  uncut_closed.runOperation (fun _ => writes_of_kindRespects fun _ _ _ _ w => by cases w <;> exact id) h

/-! The invariant. -/

theorem inv_iff (s : State) :
    s.Inv ↔ s.elements.transferSound ∧ s.elements.paired ∧ s.elements.keyed ∧ s.silentHang ∧ s.resetIn = none := by
  constructor
  · intro h
    refine ⟨⟨h.memory, h.transfer⟩, ⟨h.frames, h.session, h.chipid⟩, fun past => ?_, h.silent, h.uncut⟩
    obtain ⟨table, session, idword, frame⟩ := h.keyed past
    exact ⟨⟨table, session, idword⟩, frame⟩
  · rintro ⟨⟨memory, transfer⟩, ⟨frames, session, chipid⟩, keyed, silent, uncut⟩
    refine ⟨memory, transfer, frames, session, chipid, fun past => ?_, silent, uncut⟩
    obtain ⟨⟨table, session, idword⟩, frame⟩ := keyed past
    exact ⟨table, session, idword, frame⟩

theorem runOperation_keeps_inv {o : Operation} {s t : State} (h : runOperation o s = .next t) (awake : s.hung = none)
    (inv : s.Inv) : t.Inv := by
  obtain ⟨sound, paired, keyed, -, uncut⟩ := (inv_iff s).1 inv
  exact (inv_iff t).2 ⟨runOperation_keeps_transferSound h sound, runOperation_keeps_paired h paired,
    runOperation_keeps_keyed h keyed, runOperation_silentHang h awake, runOperation_uncut h uncut⟩

/-- After a reset only host memory, which it keeps, can break the invariant. -/
theorem resetEvent_inv (e : Env) {s : State} (h : Memory.wf s.mem = true) : (resetEvent e s).Inv where
  memory := h
  transfer := ⟨⟨rfl, rfl, rfl, rfl, rfl⟩, nofun⟩
  frames := rfl
  session := nofun
  chipid := nofun
  keyed past := absurd rfl past
  silent hangs := absurd rfl hangs
  uncut := rfl

/-- A reset in the middle of an operation finds host memory in its canonical form. -/
theorem cutShort_inv (o : Operation) (n : Nat) (e : Env) {s : State} (inv : s.Inv) : (cutShort o n e s).Inv := by
  have sound : (s.setResetIn (some n)).elements.transferSound := ⟨inv.memory, inv.transfer⟩
  have kept := reached_of (P := fun t => t.elements.transferSound) sound
    fun t (h : runOperation o (s.setResetIn (some n)) = .next t) => runOperation_keeps_transferSound h sound
  exact resetEvent_inv e kept.1

theorem readPort_inv (p : Port) {s : State} (awake : s.hung = none) (inv : s.Inv) : (readPort p s).Inv := by
  obtain ⟨r, hr⟩ : ∃ r, readPort p s = s.setResponse r := by
    unfold readPort
    split
    · exact ⟨_, rfl⟩
    · exact ⟨_, rfl⟩
  rw [hr]
  exact { inv with silent := fun hangs => absurd awake hangs }

/-- The host's writes, reads and reset. -/
theorem hostEvent_inv (e : HostEvent) {s : State} (awake : s.hung = none ∨ ∃ env, e = .reset env) (inv : s.Inv) :
    (hostEvent e s).Inv := by
  cases e with
  | reset env => exact resetEvent_inv env inv.memory
  | readPort p => exact readPort_inv p (awake.resolve_right nofun) inv
  | readLog => exact { inv with silent := fun hangs => absurd (awake.resolve_right nofun) hangs }
  | writeIdword w =>
    exact { inv with keyed := fun past => ⟨(inv.keyed past).1, (inv.keyed past).2.1, rfl, (inv.keyed past).2.2.2⟩ }
  | _ => exact { inv with }

/-- Settles O53, by what a step can do. -/
theorem stepKeepsInvariant : Obligations.StepKeepsInvariant := by
  intro s t inv stepped
  have taken (rest : List HostEvent) : (s.setInbox rest).Inv := { inv with }
  obtain rfl | ⟨awake, o, rest, h⟩ | ⟨-, o, n, e, rest, rfl⟩ | ⟨e, rest, awake, rfl⟩ := step_next_cases stepped
  · exact inv
  · exact runOperation_keeps_inv h awake (taken rest)
  · exact cutShort_inv o n e (taken rest)
  · exact hostEvent_inv e awake (taken rest)

/-- Settles O54. -/
theorem resetSatisfiesInvariant : Obligations.ResetSatisfiesInvariant :=
  resetEvent_inv Env.initial (s := State.reset) rfl

end Sys2Proof.Machine
end

section
/-! PROOFS. AES.SESSION (44_ctr_aes_session.md): reading AESIN in the order of the rules, the key, the one decryption. -/

namespace Sys2Proof.Machine

/-- The first word of AESIN in a list that nothing has written. -/
def firstUnwritten (s : State) (reads : List (Fin 15)) : Option (Fin 15) := reads.find? fun i => !s.aes.aesin[i].written

theorem firstUnwritten_eq_none {s : State} {reads : List (Fin 15)} :
    firstUnwritten s reads = none ↔ ∀ i ∈ reads, s.aes.aesin[i].written = true := by
  simp [firstUnwritten]

theorem firstUnwritten_cons (s : State) (i : Fin 15) (l : List (Fin 15)) :
    firstUnwritten s (i :: l) = if s.aes.aesin[i].written then firstUnwritten s l else some i := by
  rw [firstUnwritten, List.find?_cons]
  cases s.aes.aesin[i].written <;> rfl

theorem firstUnwritten_append (s : State) (l l' : List (Fin 15)) :
    firstUnwritten s (l ++ l') = (firstUnwritten s l).or (firstUnwritten s l') := List.find?_append

theorem firstUnwritten_split {s : State} {before after : List (Fin 15)} {i : Fin 15}
    (written : ∀ j ∈ before, s.aes.aesin[j].written = true) (unwritten : s.aes.aesin[i].written = false) :
    firstUnwritten s (before ++ i :: after) = some i := by
  rw [firstUnwritten_append, firstUnwritten_eq_none.2 written, firstUnwritten_cons, unwritten]
  rfl

/-- `m` reads the words `reads` of AESIN in their order and answers `v`; it is E_UNINIT at the first unwritten one. -/
def ReadsAesin {α : Type} (reads : List (Fin 15)) (m : Op α) (v : State → α) : Prop :=
  ∀ s, m s = match firstUnwritten s reads with
    | some i => .error (.event (.uninit (.port (.aesin i)))) s
    | none => .ok (v s) s

namespace ReadsAesin

variable {α β : Type} {reads reads' : List (Fin 15)} {m : Op α} {v : State → α}

theorem ok (h : ReadsAesin reads m v) {s : State} (written : firstUnwritten s reads = none) : m s = .ok (v s) s := by
  rw [h s, written]

theorem error (h : ReadsAesin reads m v) {s : State} {i : Fin 15} (unwritten : firstUnwritten s reads = some i) :
    m s = .error (.event (.uninit (.port (.aesin i)))) s := by
  rw [h s, unwritten]

theorem pure (a : α) : ReadsAesin [] (Pure.pure a) fun _ => a := fun _ => rfl

theorem bind (h : ReadsAesin reads m v) {f : α → Op β} {w : α → State → β} (hf : ∀ a, ReadsAesin reads' (f a) (w a)) :
    ReadsAesin (reads ++ reads') (m >>= f) fun s => w (v s) s := by
  intro s
  rw [firstUnwritten_append]
  cases first : firstUnwritten s reads with
  | some i => rw [Op.bind_error (h.error first)]; rfl
  | none => rw [Op.bind_ok (h.ok first), hf]; rfl

theorem word (i : Fin 15) : ReadsAesin [i] (readAesin i) (·.aes.aesin[i].val) := by
  intro s
  rw [readAesin, readReg_apply, firstUnwritten_cons]
  cases s.aes.aesin[i].written <;> rfl

theorem quad (a b c d : Fin 15) : ReadsAesin [a, b, c, d] (readAesinQuad a b c d) fun s =>
    ⟨s.aes.aesin[a].val, s.aes.aesin[b].val, s.aes.aesin[c].val, s.aes.aesin[d].val⟩ :=
  (word a).bind fun _ => (word b).bind fun _ => (word c).bind fun _ => (word d).bind fun _ => pure _

end ReadsAesin

/-- What a session decrypts besides its key: the counter fields, the ciphertext and the MAC (R190). -/
def readMessage : Op (Trio × Quad × Quad) := do
  let n0 ← readAesin 12
  let n1 ← readAesin 13
  let n2 ← readAesin 14
  let ct ← readAesinQuad 4 5 6 7
  let mac ← readAesinQuad 8 9 10 11
  pure (⟨n0, n1, n2⟩, ct, mac)

def messageReads : List (Fin 15) := [12, 13, 14, 4, 5, 6, 7, 8, 9, 10, 11]

/-- The message as AESIN holds it. -/
def State.message (s : State) : Trio × Quad × Quad :=
  let w := fun i : Fin 15 => s.aes.aesin[i].val
  (⟨w 12, w 13, w 14⟩, ⟨w 4, w 5, w 6, w 7⟩, ⟨w 8, w 9, w 10, w 11⟩)

theorem readMessage_reads : ReadsAesin messageReads readMessage State.message :=
  (ReadsAesin.word 12).bind fun _ => (ReadsAesin.word 13).bind fun _ => (ReadsAesin.word 14).bind fun _ =>
    (ReadsAesin.quad 4 5 6 7).bind fun _ => (ReadsAesin.quad 8 9 10 11).bind fun _ => ReadsAesin.pure _

/-- The decryption of a message under a key, and what is done with its result (R190). -/
def decryptMessage (key : Quad) (x : Trio × Quad × Quad) : Op Unit := do
  call (.ccmDecrypt key x.1 x.2.1 x.2.2)
  awaitAccept .aesEngine
  let r ← peek fun s => ccmDecrypt s.cfg key x.1 x.2.1 x.2.2
  putSession r.1 r.2
  onlyIf (!r.2) (logEntry .mismatchMac)

theorem aesSession_eq (dev : BitVec 1) :
    aesSession dev = (sessionKeySource dev >>= fun key => readMessage >>= decryptMessage key) := by
  simp [aesSession, readMessage, decryptMessage]

/-- A completion wait that is answered, without a bound. -/
theorem awaitAccept_answered (w : Wait) {s : State} (unbounded : s.cfg.pollBound = none) (answers : s.env.nextAccept ≠ none) :
    awaitAccept w s = .ok () (s.setEnv s.env.afterAccept) := by
  obtain ⟨k, hk⟩ := Option.ne_none_iff_exists'.1 answers
  unfold awaitAccept
  rw [hk]
  exact settle_some unbounded

/-- The state after a session's decryption `r`, `calls` having been made. -/
def sessionEnded (calls : List EnvCall) (r : Quad × Bool) (s : State) : State :=
  (((s.setTrace (s.trace ++ calls)).setEnv s.env.afterAccept).setAes
    { s.aes with aesout := .holding r.1, macv := r.2 }).setLog (s.log ++ macLog r.2)

theorem decryptMessage_answers (key : Quad) (x : Trio × Quad × Quad) {s : State} (uncut : s.resetIn = none)
    (unbounded : s.cfg.pollBound = none) (answers : s.env.nextAccept ≠ none) :
    decryptMessage key x s = .ok () (sessionEnded [.ccmDecrypt key x.1 x.2.1 x.2.2]
      (ccmDecrypt s.cfg key x.1 x.2.1 x.2.2) s) := by
  have waited := awaitAccept_answered .aesEngine (s := s.setTrace (s.trace ++ [.ccmDecrypt key x.1 x.2.1 x.2.2])) unbounded
    answers
  unfold decryptMessage putSession
  rw [Op.bind_ok (call_apply _ uncut), Op.bind_ok waited, Op.bind_ok (peek_apply _ _), Op.bind_ok (change_apply _ _)]
  simp only [State.setEnv_cfg, State.setTrace_cfg]
  cases hok : (ccmDecrypt s.cfg key x.1 x.2.1 x.2.2).2 with
  | true => simp [onlyIf, sessionEnded, hok, macLog]; rfl
  | false => simp [onlyIf, sessionEnded, hok, macLog]

/-- The key source of a retail cartridge. -/
def keyReads : List (Fin 15) := [0, 1, 2, 3]

def State.keySource (s : State) : Quad :=
  ⟨s.aes.aesin[(0 : Fin 15)].val, s.aes.aesin[(1 : Fin 15)].val, s.aes.aesin[(2 : Fin 15)].val,
    s.aes.aesin[(3 : Fin 15)].val⟩

/-- The state after a retail cartridge's key is made. -/
def scrambled (s : State) : State := s.setTrace (s.trace ++ [.keyScramble s.keySource])

theorem sessionKeySource_development {dev : BitVec 1} (h : dev = 1) (s : State) :
    sessionKeySource dev s = .ok ⟨0, 0, 0, 0⟩ s := by
  rw [sessionKeySource, if_pos h]
  rfl

theorem sessionKeySource_retail {dev : BitVec 1} (h : dev ≠ 1) {s : State} (uncut : s.resetIn = none)
    (written : firstUnwritten s keyReads = none) :
    sessionKeySource dev s = .ok (keyScramble s.cfg s.keySource) (scrambled s) := by
  rw [sessionKeySource, if_neg h, scrambledKey, Op.bind_ok ((ReadsAesin.quad 0 1 2 3).ok written),
    Op.bind_ok (call_apply _ uncut)]
  rfl

theorem sessionKeySource_unwritten {dev : BitVec 1} (h : dev ≠ 1) {s : State} {i : Fin 15}
    (unwritten : firstUnwritten s keyReads = some i) :
    sessionKeySource dev s = .error (.event (.uninit (.port (.aesin i)))) s := by
  rw [sessionKeySource, if_neg h, scrambledKey, Op.bind_error ((ReadsAesin.quad 0 1 2 3).error unwritten)]

theorem sessionReads_development {dev : BitVec 1} (h : dev = 1) : sessionReads dev = messageReads := by
  rw [sessionReads, if_pos h]
  rfl

theorem sessionReads_retail {dev : BitVec 1} (h : dev ≠ 1) : sessionReads dev = keyReads ++ messageReads := by
  rw [sessionReads, if_neg h]
  rfl

/-- Everything a session does when its words are written and the engine answers (R190 to R192). -/
theorem aesSession_answers {dev : BitVec 1} {s : State} (uncut : s.resetIn = none) (ready : s.sessionReady dev)
    (unbounded : s.cfg.pollBound = none) (answers : s.env.nextAccept ≠ none) :
    aesSession dev s = .ok () (sessionEnded (sessionCalls s dev) (specSession s dev) s) := by
  have message : firstUnwritten s messageReads = none := by
    refine firstUnwritten_eq_none.2 fun i hi => ready i fun _ => ?_
    revert i
    decide
  rw [aesSession_eq]
  by_cases h : dev = 1
  · rw [Op.bind_ok (sessionKeySource_development h s), Op.bind_ok (readMessage_reads.ok message),
      decryptMessage_answers _ _ uncut unbounded answers, sessionCalls, specSession, if_pos h, if_pos h]
    rfl
  · have key : firstUnwritten s keyReads = none := firstUnwritten_eq_none.2 fun i _ => ready i fun hd => absurd hd h
    rw [Op.bind_ok (sessionKeySource_retail h uncut key),
      Op.bind_ok (readMessage_reads.ok (s := scrambled s) message),
      decryptMessage_answers _ _ (s := scrambled s) uncut unbounded answers, sessionCalls, specSession, if_neg h, if_neg h]
    simp [sessionEnded, scrambled, State.message, State.keySource, State.setTrace, State.setEnv, State.setAes, State.setLog]

/-- Where a session stops on an unwritten word of AESIN: the key scrambler called exactly when its words are written. -/
theorem aesSession_unwritten {dev : BitVec 1} {s : State} {i : Fin 15} (uncut : s.resetIn = none)
    (first : firstUnwritten s (sessionReads dev) = some i) :
    aesSession dev s = .error (.event (.uninit (.port (.aesin i))))
      (s.setTrace (s.trace ++ if dev = 1 ∨ i.val < 4 then [] else [.keyScramble s.keySource])) := by
  have nothing : s.setTrace (s.trace ++ []) = s := by rw [List.append_nil]; rfl
  rw [aesSession_eq]
  by_cases h : dev = 1
  · rw [sessionReads_development h] at first
    rw [if_pos (.inl h), nothing, Op.bind_ok (sessionKeySource_development h s),
      Op.bind_error (readMessage_reads.error first)]
  · rw [sessionReads_retail h, firstUnwritten_append] at first
    cases key : firstUnwritten s keyReads with
    | some j =>
      obtain rfl : j = i := by simpa [key] using first
      have early : ∀ j ∈ keyReads, j.val < 4 := by decide
      rw [if_pos (.inr (early j (List.mem_of_find?_eq_some key))), nothing,
        Op.bind_error (sessionKeySource_unwritten h key)]
    | none =>
      have message : firstUnwritten s messageReads = some i := by simpa [key] using first
      have late : ∀ j ∈ messageReads, ¬ j.val < 4 := by decide
      rw [if_neg (not_or.2 ⟨h, late i (List.mem_of_find?_eq_some message)⟩),
        Op.bind_ok (sessionKeySource_retail h uncut key),
        Op.bind_error (readMessage_reads.error (s := scrambled s) message)]
      rfl

/-- Settles O38. -/
theorem aesSessionDerivesTheKey : Obligations.AesSessionDerivesTheKey := by
  intro dev s uncut
  refine ⟨fun ready unbounded answers => ?_, fun before i after reads written unwritten => ?_⟩
  · exact perform_ok (Op.bind_ok (aesSession_answers uncut ready unbounded answers))
  · have stopped := aesSession_unwritten (dev := dev) uncut (reads ▸ firstUnwritten_split written unwritten)
    exact ⟨perform_error (Op.bind_error stopped), perform_error (Op.bind_error (Op.bind_error stopped))⟩

end Sys2Proof.Machine
end

section
/-! PROOFS. NTR.UNLOCK up to StepSeed (46_unlock_sequences.md R240 to R247): what each step answers, and where the
sequence stops. -/

namespace Sys2Proof.Machine

theorem exec_ntrUnlock {gen : BitVec 1} {base : Table} {s : State} (raw : s.seq.phase = .raw)
    (supplied : baseTable s.cfg gen = some base) :
    exec (.ntrUnlock gen) s = perform (do ntrUnlock gen base; pure .done) s := by
  simp only [exec, execNtrUnlock, if_pos raw, withBase, supplied]

/-! The environment's answers to `NtrSend` outlast draws and calls. -/

theorem Env.afterDraw_keepsReplies (e : Env) :
    e.afterDraw.replies = e.replies ∧ e.afterDraw.replyRest = e.replyRest := by
  unfold Env.afterDraw
  cases e.draws <;> exact ⟨rfl, rfl⟩

theorem Env.afterDraws_keepsReplies (e : Env) (n : Nat) :
    (e.afterDraws n).replies = e.replies ∧ (e.afterDraws n).replyRest = e.replyRest := by
  induction n with
  | zero => exact ⟨rfl, rfl⟩
  | succ n ih =>
    obtain ⟨replies, rest⟩ := (e.afterDraws n).afterDraw_keepsReplies
    exact ⟨replies.trans ih.1, rest.trans ih.2⟩

theorem promptReplies_of_draws {s t : State} (h : s.promptReplies) (cfg : t.cfg = s.cfg) (uncut : t.resetIn = s.resetIn)
    {n : Nat} (env : t.env = s.env.afterDraws n) : t.promptReplies := by
  obtain ⟨replies, rest⟩ := s.env.afterDraws_keepsReplies n
  rw [State.promptReplies, cfg, uncut, env, replies, rest]
  exact h

theorem promptReplies_setUp {base : Table} {s : State} (h : s.promptReplies) : (setUp base s).promptReplies :=
  promptReplies_of_draws h rfl rfl (n := 6) rfl

theorem promptReplies_actKey1Built {gen : BitVec 1} {s : State} (h : s.promptReplies) :
    (actKey1Built gen s).promptReplies :=
  promptReplies_of_draws h rfl rfl (n := 1) rfl

/-! The steps. -/

theorem sendEframe_answers (n : Nat) {s : State} (h : s.promptReplies) :
    sendEframe n s = .ok (s.env.replyAt 0 n) (afterSend s.command.eframe.val n s) := by
  unfold sendEframe
  rw [Op.bind_ok (peek_apply _ _), ntrSend_answers _ n h]

/-- The state after StepActivateKey1: the frame built and sent (R244). -/
def key1Sent (gen : BitVec 1) (s : State) : State := afterSend (specActKey1 s gen) 0 (actKey1Built gen s)

theorem promptReplies_key1Sent {gen : BitVec 1} {s : State} (h : s.promptReplies) : (key1Sent gen s).promptReplies :=
  promptReplies_after (promptReplies_actKey1Built h) (specActKey1 s gen) 0

theorem stepActivateKey1_answers (gen : BitVec 1) {s : State} (session : s.command.svalid = true)
    (prompt : s.promptReplies) : stepActivateKey1 gen s = .ok () (key1Sent gen s) := by
  unfold stepActivateKey1
  rw [Op.bind_ok (actKey1_apply gen session), Op.bind_ok (sendEframe_answers 0 (promptReplies_actKey1Built prompt))]
  rfl

theorem stepActivateKey1_silent (gen : BitVec 1) {s : State} (session : s.command.svalid = true)
    (uncut : s.resetIn = none) (silent : s.env.afterDraw.nextReply.polls = none) :
    stepActivateKey1 gen s = .error (unsatisfied s.cfg.pollBound .ntrSend) (key1Sent gen s) := by
  have send : sendEframe 0 (actKey1Built gen s) = .error (unsatisfied s.cfg.pollBound .ntrSend) (key1Sent gen s) := by
    unfold sendEframe
    rw [Op.bind_ok (peek_apply _ _)]
    exact ntrSend_silent _ 0 (s := actKey1Built gen s) uncut silent
  unfold stepActivateKey1
  rw [Op.bind_ok (actKey1_apply gen session), Op.bind_error send]

/-- The state in which the activate-secure frame is built and sent (R245). -/
def secureSent (s : State) : State :=
  afterSend (specSeal s.cipher.sched.t (specFrame s s.cfg.opActivateSec 0)) 0 (commandBuilt s.cfg.opActivateSec 0 s)

theorem promptReplies_secureSent {s : State} (h : s.promptReplies) : (secureSent s).promptReplies :=
  promptReplies_after (s := commandBuilt s.cfg.opActivateSec 0 s) h _ 0

/-- StepActivateSecure: large geometry adds the delay and the resend (R245). -/
theorem stepActivateSecure_eq {s : State} (build : s.canBuild) (prompt : s.promptReplies)
    (hid : s.inputs.idword.written = true) :
    stepActivateSecure s = onlyIf (s.inputs.idword.val.getLsbD 31) delayAndResend (secureSent s) := by
  have id : readIdword (secureSent s) = .ok s.inputs.idword.val (secureSent s) :=
    readReg_written (f := (·.inputs.idword)) _ hid
  unfold stepActivateSecure
  rw [Op.bind_ok (peek_apply _ _), Op.bind_ok (cmdBuild_apply _ 0 build),
    Op.bind_ok (sendEframe_answers 0 (s := commandBuilt s.cfg.opActivateSec 0 s) prompt)]
  exact Op.bind_ok id

theorem delayAndResend_no_timing {s : State} (h : s.inputs.timing.written = false) :
    delayAndResend s = .error (.event (.uninit .timing)) s := by
  unfold delayAndResend calibrated
  rw [Op.bind_error (Op.bind_error (by rw [readReg_apply, h]; rfl))]

/-- The state after the delay and the resend (R245, R246). -/
def delayedResent (s : State) : State :=
  afterSend s.command.eframe.val 0 (s.setTrace (s.trace ++ [.delay (s.inputs.timing.val * 763)]))

theorem delayAndResend_answers {s : State} (h : s.inputs.timing.written = true) (prompt : s.promptReplies) :
    delayAndResend s = .ok () (delayedResent s) := by
  have wait : calibrated s = .ok () (s.setTrace (s.trace ++ [.delay (s.inputs.timing.val * 763)])) := by
    unfold calibrated
    rw [Op.bind_ok (readReg_written (f := (·.inputs.timing)) _ h), delay_apply _ prompt.2.1]
    rfl
  unfold delayAndResend
  rw [Op.bind_ok wait]
  exact Op.bind_ok (sendEframe_answers 0 (s := s.setTrace (s.trace ++ [.delay (s.inputs.timing.val * 763)])) prompt)

theorem stepSeed_no_seedidx {s : State} (h : s.inputs.seedidx.written = false) :
    stepSeed s = .error (.event (.uninit .seedidx)) s := by
  unfold stepSeed
  rw [Op.bind_error (by rw [readReg_apply, h]; rfl)]

/-- PHASE moved. -/
def phased (p : Phase) (s : State) : State := s.setSeq { s.seq with phase := p }

theorem putPhase_apply (p : Phase) (s : State) : putPhase p s = .ok () (phased p s) := rfl

theorem promptReplies_phased {p : Phase} {s : State} (h : s.promptReplies) : (phased p s).promptReplies := h

@[simp] theorem key1Sent_inputs (gen : BitVec 1) (s : State) : (key1Sent gen s).inputs = s.inputs := rfl
@[simp] theorem setUp_inputs (base : Table) (s : State) : (setUp base s).inputs = s.inputs := rfl
@[simp] theorem phased_inputs (p : Phase) (s : State) : (phased p s).inputs = s.inputs := rfl
@[simp] theorem secureSent_inputs (s : State) : (secureSent s).inputs = s.inputs := rfl
@[simp] theorem delayedResent_inputs (s : State) : (delayedResent s).inputs = s.inputs := rfl

/-- NTR.UNLOCK after Setup and the activate-key1 frame. -/
theorem ntrUnlock_key1_sent {gen : BitVec 1} {base : Table} {s : State} (hid : s.inputs.idword.written = true)
    (hcode : s.inputs.gamecode.written = true) (prompt : s.promptReplies) :
    ntrUnlock gen base s = afterKey1 (key1Sent gen (setUp base s)) := by
  rw [Steady.ntrUnlock_eq, Op.bind_ok (setup_apply base hid hcode), afterSetup_eq,
    Op.bind_ok (stepActivateKey1_answers gen (s := setUp base s) rfl (promptReplies_setUp prompt))]

/-- The state in which the activate-secure frame of the sequence is sent. -/
def sequenceSecured (gen : BitVec 1) (base : Table) (s : State) : State :=
  secureSent (phased .keyedRandom (key1Sent gen (setUp base s)))

theorem promptReplies_sequenceSecured {gen : BitVec 1} {base : Table} {s : State} (h : s.promptReplies) :
    (sequenceSecured gen base s).promptReplies :=
  promptReplies_secureSent (promptReplies_phased (promptReplies_key1Sent (promptReplies_setUp h)))

theorem sequence_stepActivateSecure {gen : BitVec 1} {base : Table} {s : State} (hid : s.inputs.idword.written = true)
    (prompt : s.promptReplies) :
    stepActivateSecure (phased .keyedRandom (key1Sent gen (setUp base s))) =
      onlyIf (s.inputs.idword.val.getLsbD 31) delayAndResend (sequenceSecured gen base s) := by
  have inputs : (phased .keyedRandom (key1Sent gen (setUp base s))).inputs = s.inputs := by simp
  rw [stepActivateSecure_eq ⟨rfl, rfl⟩ (promptReplies_phased (promptReplies_key1Sent (promptReplies_setUp prompt)))
    (by rw [inputs, hid]), inputs, sequenceSecured]

/-- A cartridge that never answers the first command: the sequence stops in that wait. -/
theorem ntrUnlock_silent {gen : BitVec 1} {base : Table} {s : State} (uncut : s.resetIn = none)
    (hid : s.inputs.idword.written = true) (hcode : s.inputs.gamecode.written = true)
    (silent : (s.env.afterDraws 7).nextReply.polls = none) :
    ntrUnlock gen base s = .error (unsatisfied s.cfg.pollBound .ntrSend) (key1Sent gen (setUp base s)) := by
  rw [Steady.ntrUnlock_eq, Op.bind_ok (setup_apply base hid hcode), afterSetup_eq,
    Op.bind_error (stepActivateKey1_silent gen (s := setUp base s) rfl uncut silent)]
  rfl

/-- Large geometry without HDR.TIMING: the sequence stops in StepActivateSecure. -/
theorem ntrUnlock_no_timing {gen : BitVec 1} {base : Table} {s : State} (hid : s.inputs.idword.written = true)
    (hcode : s.inputs.gamecode.written = true) (prompt : s.promptReplies) (large : s.inputs.idword.val.getLsbD 31 = true)
    (timing : s.inputs.timing.written = false) :
    ntrUnlock gen base s = .error (.event (.uninit .timing)) (sequenceSecured gen base s) := by
  rw [ntrUnlock_key1_sent hid hcode prompt, afterKey1, Op.bind_ok (putPhase_apply _ _)]
  refine Op.bind_error ?_
  rw [sequence_stepActivateSecure hid prompt, large, onlyIf_true]
  exact delayAndResend_no_timing timing

/-- The state after StepActivateSecure of the sequence, in either geometry. -/
def sequenceActivated (gen : BitVec 1) (base : Table) (s : State) : State :=
  if s.inputs.idword.val.getLsbD 31 then delayedResent (sequenceSecured gen base s) else sequenceSecured gen base s

theorem sequenceActivated_inputs (gen : BitVec 1) (base : Table) (s : State) :
    (sequenceActivated gen base s).inputs = s.inputs := by
  simp [sequenceActivated, sequenceSecured, apply_ite State.inputs]

@[simp] theorem key1Sent_dev (gen : BitVec 1) (s : State) : (key1Sent gen s).dev = s.dev := rfl
@[simp] theorem setUp_dev (base : Table) (s : State) : (setUp base s).dev = s.dev := rfl
@[simp] theorem phased_dev (p : Phase) (s : State) : (phased p s).dev = s.dev := rfl
@[simp] theorem secureSent_dev (s : State) : (secureSent s).dev = s.dev := rfl
@[simp] theorem delayedResent_dev (s : State) : (delayedResent s).dev = s.dev := rfl

theorem sequenceActivated_dev (gen : BitVec 1) (base : Table) (s : State) : (sequenceActivated gen base s).dev = s.dev := by
  simp [sequenceActivated, sequenceSecured, apply_ite State.dev]

theorem delayedResent_trace (s : State) :
    (delayedResent s).trace = s.trace ++ [.delay (s.inputs.timing.val * 763), .ntrSend s.command.eframe.val 0] := by
  simp [delayedResent, afterSend]

theorem sequenceSecured_inputs (gen : BitVec 1) (base : Table) (s : State) :
    (sequenceSecured gen base s).inputs = s.inputs := by
  simp [sequenceSecured]

/-- The two frames of the sequence so far: activate-key1 in the plain, activate-secure sealed. -/
theorem sequenceSecured_trace (gen : BitVec 1) (base : Table) (s : State) :
    (sequenceSecured gen base s).trace = s.trace ++
      [.ntrSend (specActKey1 (setUp base s) gen) 0, .ntrSend (sequenceSecured gen base s).command.eframe.val 0] := by
  show (s.trace ++ [_]) ++ [_] = _
  simp
  rfl

/-- Large geometry adds the delay and the resend of the same frame. -/
theorem sequenceActivated_trace (gen : BitVec 1) (base : Table) (s : State) :
    (sequenceActivated gen base s).trace = (sequenceSecured gen base s).trace ++
      if s.inputs.idword.val.getLsbD 31 then
        [.delay (s.inputs.timing.val * 763), .ntrSend (sequenceSecured gen base s).command.eframe.val 0]
      else [] := by
  rw [sequenceActivated]
  split
  · rw [delayedResent_trace, sequenceSecured_inputs]
  · rw [List.append_nil]

/-- Without HDR.SEEDIDX the sequence stops in StepSeed. -/
theorem ntrUnlock_no_seedidx {gen : BitVec 1} {base : Table} {s : State} (hid : s.inputs.idword.written = true)
    (hcode : s.inputs.gamecode.written = true) (prompt : s.promptReplies)
    (timing : s.inputs.idword.val.getLsbD 31 = true → s.inputs.timing.written = true)
    (seedidx : s.inputs.seedidx.written = false) :
    ntrUnlock gen base s = .error (.event (.uninit .seedidx)) (phased .secureKeyed (sequenceActivated gen base s)) := by
  have activated : stepActivateSecure (phased .keyedRandom (key1Sent gen (setUp base s))) =
      .ok () (sequenceActivated gen base s) := by
    rw [sequence_stepActivateSecure hid prompt, sequenceActivated]
    cases large : s.inputs.idword.val.getLsbD 31 with
    | false => rfl
    | true => exact delayAndResend_answers (timing large) (promptReplies_sequenceSecured prompt)
  rw [ntrUnlock_key1_sent hid hcode prompt, afterKey1, Op.bind_ok (putPhase_apply _ _), Op.bind_ok activated,
    Op.bind_ok (putPhase_apply _ _)]
  refine Op.bind_error (stepSeed_no_seedidx ?_)
  rw [phased_inputs, sequenceActivated_inputs, seedidx]

/-- What taking a wait's stop leaves: the hang without a bound, else the event. -/
theorem takeStop_unsatisfied (bound : Option Nat) (w : Wait) (t : State) :
    (bound = none → takeStop (unsatisfied bound w) t = (t.setResponse none).setHung (some w)) ∧
      (bound ≠ none → takeStop (unsatisfied bound w) t = t.setResponse (some (.fault (.pollBound w)))) := by
  cases bound with
  | none => exact ⟨fun _ => rfl, fun h => absurd rfl h⟩
  | some b => exact ⟨nofun, fun _ => rfl⟩

theorem takeStop_elements (e : Stop) (t : State) : (takeStop e t).elements = t.elements := by
  cases e <;> rfl

theorem takeStop_outside (e : Stop) (t : State) :
    (takeStop e t).trace = t.trace ∧ (takeStop e t).env = t.env ∧ (takeStop e t).dev = t.dev ∧
      (takeStop e t).log = t.log := by
  cases e <;> exact ⟨rfl, rfl, rfl, rfl⟩

/-- Settles O51. -/
theorem ntrUnlockHangsOnASilentCartridge : Obligations.NtrUnlockHangsOnASilentCartridge := by
  intro gen base s raw uncut supplied keyed frame large sealed
  have run := exec_ntrUnlock (gen := gen) raw supplied
  have stops {e : Stop} {t : State} (h : ntrUnlock gen base s = .error e t) :
      exec (.ntrUnlock gen) s = .next (takeStop e t) := by
    rw [run, perform_error (Op.bind_error h)]
  refine ⟨fun hcode hid silent => ?_, fun hid => ?_, fun hid hcode => ?_, fun hid hcode prompt isLarge timing => ?_,
    fun hid hcode prompt timing seedidx => ?_⟩
  · have kept := takeStop_elements (unsatisfied s.cfg.pollBound .ntrSend) (key1Sent gen (setUp base s))
    obtain ⟨trace, env, dev, log⟩ := takeStop_outside (unsatisfied s.cfg.pollBound .ntrSend) (key1Sent gen (setUp base s))
    obtain ⟨hangs, bounded⟩ := takeStop_unsatisfied s.cfg.pollBound .ntrSend (key1Sent gen (setUp base s))
    exact ⟨_, stops (ntrUnlock_silent uncut hid hcode silent), congrArg (·.cipher) kept, congrArg (·.command) kept,
      congrArg (·.seq) kept, trace, env,
      fun unbounded => by rw [hangs unbounded]; exact ⟨rfl, rfl, fun noReset => step_hung rfl noReset⟩,
      fun bound => by rw [bounded bound]; exact ⟨rfl, rfl⟩,
      congrArg (·.cfg) kept, congrArg (·.area) kept, congrArg (·.aes) kept, congrArg (·.transport) kept,
      congrArg (·.inputs) kept, congrArg (·.mem) kept, log, dev, congrArg (·.inbox) kept⟩
  · exact stops (by rw [Steady.ntrUnlock_eq, Op.bind_error (setup_no_idword base hid)])
  · exact stops (by rw [Steady.ntrUnlock_eq, Op.bind_error (setup_no_gamecode base hid hcode)])
  · exact ⟨_, stops (ntrUnlock_no_timing hid hcode prompt isLarge timing), rfl, rfl,
      sequenceSecured_trace gen base s, rfl⟩
  · refine ⟨_, stops (ntrUnlock_no_seedidx hid hcode prompt timing seedidx), rfl, rfl,
      sequenceActivated_dev gen base s, ?_⟩
    have sent := sequenceActivated_trace gen base s
    rw [sequenceSecured_trace] at sent
    exact sent

end Sys2Proof.Machine
end

section
/-! PROOFS. CTR.UNLOCK (46_unlock_sequences.md R260 to R268): the seed programmed twice, the challenges asked, the answers
compared, the resends. -/

namespace Sys2Proof.Machine

/-! What the draws and the completion waits leave of the environment. -/

/-- `e'` is `e` with answers of other kinds than `Status()` taken: a controller that ends not busy and ready stays one,
and waits that end stay such. -/
structure Env.Later (e e' : Env) : Prop where
  statusRest : e'.statusRest = e.statusRest
  acceptRest : e'.acceptRest = e.acceptRest
  accepts : ∀ a ∈ e'.accepts, a ∈ e.accepts

theorem Env.Later.refl (e : Env) : e.Later e := ⟨rfl, rfl, fun _ => id⟩

theorem Env.Later.trans {e e' e'' : Env} (h : e.Later e') (h' : e'.Later e'') : e.Later e'' :=
  ⟨h'.statusRest.trans h.statusRest, h'.acceptRest.trans h.acceptRest, fun a ha => h.accepts a (h'.accepts a ha)⟩

theorem Env.later_afterAccept (e : Env) : e.Later e.afterAccept := by
  obtain ⟨-, statusRest, acceptRest, -, accepts⟩ := e.afterAccept_keeps
  exact ⟨statusRest, acceptRest, accepts⟩

theorem Env.later_afterAccepts (e : Env) (n : Nat) : e.Later (e.afterAccepts n) := by
  induction n with
  | zero => exact .refl e
  | succ n ih => exact ih.trans (Env.later_afterAccept _)

theorem Env.later_afterDraws (e : Env) (n : Nat) : e.Later (e.afterDraws n) := by
  induction n with
  | zero => exact .refl e
  | succ n ih =>
    refine ih.trans ?_
    rw [Env.afterDraws, Env.afterDraw]
    split <;> exact ⟨rfl, rfl, fun _ => id⟩

theorem promptAccepts_later {s t : State} (h : s.promptAccepts) (cfg : t.cfg = s.cfg) (uncut : t.resetIn = s.resetIn)
    (later : s.env.Later t.env) : t.promptAccepts := by
  obtain ⟨unbounded, none, accepts, rest⟩ := h
  exact ⟨by rw [cfg, unbounded], by rw [uncut, none], fun a ha => accepts a (later.accepts a ha),
    by rw [later.acceptRest]; exact rest⟩

theorem promptStatus_later {s t : State} (h : s.promptStatus) (cfg : t.cfg = s.cfg) (uncut : t.resetIn = s.resetIn)
    (later : s.env.Later t.env) : t.promptStatus := by
  obtain ⟨unbounded, none, rest⟩ := h
  exact ⟨by rw [cfg, unbounded], by rw [uncut, none], by rw [later.statusRest, rest]⟩

theorem nextAccept_of_promptAccepts {s : State} (h : s.promptAccepts) : s.env.nextAccept ≠ none := by
  obtain ⟨-, -, accepts, rest⟩ := h
  unfold Env.nextAccept
  cases hc : s.env.accepts with
  | nil => exact rest
  | cons a as => exact accepts a (by rw [hc]; exact List.mem_cons_self)

/-! The session and the challenge words (R260, R262). -/

/-- What follows the session and the two draws. -/
def seedAndAsk (ch0 ch1 : Word) : Op Unit := do
  programSeed
  putChallenge ch0 ch1
  programSeed
  let r ← askChallenges ch0 ch1
  compareAnswers ch0 ch1 r.1 r.2
  resends ch0 ch1 5

/-- The state after the session and the two draws. -/
def sessionDrawn (dev : BitVec 1) (s : State) : State :=
  (sessionEnded (sessionCalls s dev) (specSession s dev) s).setEnv (s.env.afterAccept.afterDraws 2)

theorem ctrUnlock_drawn {dev : BitVec 1} {s : State} (ready : s.sessionReady dev) (prompt : s.promptAccepts) :
    ctrUnlock dev s =
      seedAndAsk (s.env.afterAccept.drawAt 0) (s.env.afterAccept.drawAt 1) (sessionDrawn dev s) := by
  unfold ctrUnlock
  rw [Op.bind_ok (aesSession_answers prompt.2.1 ready prompt.1 (nextAccept_of_promptAccepts prompt)),
    Op.bind_ok (draw_apply _), Op.bind_ok (draw_apply _)]
  rfl

theorem promptStatus_sessionDrawn {dev : BitVec 1} {s : State} (h : s.promptStatus) :
    (sessionDrawn dev s).promptStatus :=
  promptStatus_later h rfl rfl (s.env.later_afterAccept.trans (s.env.afterAccept.later_afterDraws 2))

theorem promptAccepts_sessionDrawn {dev : BitVec 1} {s : State} (h : s.promptAccepts) :
    (sessionDrawn dev s).promptAccepts :=
  promptAccepts_later h rfl rfl (s.env.later_afterAccept.trans (s.env.afterAccept.later_afterDraws 2))

/-! The seed programming (R261, R262). -/

/-- The secure-key index: the parameter, else CAPRESP (R261). -/
def State.secKey (s : State) : Nat := s.cfg.secKeyIndex.getD s.inputs.capresp.val.toNat

/-- The state after one seed programming. -/
def seedProgrammed (s : State) : State :=
  ((s.setTrace (s.trace ++ [.ctrSecKey s.secKey, .ctrSecSeed s.aes.aesout.val])).setEnv (s.env.afterAccepts 2)).setDev
    { s.dev with secKey := s.secKey, secSeed := s.aes.aesout.val }

theorem promptAccepts_seedProgrammed {s : State} (h : s.promptAccepts) : (seedProgrammed s).promptAccepts :=
  promptAccepts_later h rfl rfl (s.env.later_afterAccepts 2)

/-- AESOUT with the byte-swapped challenge (R262). -/
def challenged (ch0 ch1 : Word) (s : State) : State :=
  s.setAes { s.aes with aesout := .holding { s.aes.aesout.val with w2 := bswap32 ch0, w3 := bswap32 ch1 } }

theorem promptStatus_seedProgrammed {s : State} (h : s.promptStatus) : (seedProgrammed s).promptStatus :=
  promptStatus_later h rfl rfl (s.env.later_afterAccepts 2)

theorem promptAccepts_challenged {ch0 ch1 : Word} {s : State} (h : s.promptAccepts) :
    (challenged ch0 ch1 s).promptAccepts := h

theorem promptStatus_challenged {ch0 ch1 : Word} {s : State} (h : s.promptStatus) :
    (challenged ch0 ch1 s).promptStatus := h

/-- The state after both seed programmings. -/
def seeded (ch0 ch1 : Word) (s : State) : State := seedProgrammed (challenged ch0 ch1 (seedProgrammed s))

theorem programSeed_no_capresp {s : State} (index : s.cfg.secKeyIndex = none) (hcap : s.inputs.capresp.written = false) :
    programSeed s = .error (.event (.uninit .capresp)) s := by
  have read : secKeyIndex s = .error (.event (.uninit .capresp)) s := by
    unfold secKeyIndex
    rw [Op.bind_ok (peek_apply _ _), index]
    exact Op.bind_error (by rw [readCapresp, readReg_apply, hcap]; rfl)
  unfold programSeed
  rw [Op.bind_error read]

/-! The challenges (R264) and the comparison (R260, R265). -/

/-- The state after both challenges: their calls and samples, their answers in RESP. -/
def asked (ch0 ch1 : Word) (s : State) : State :=
  (((s.setTransport (regsAfter s.cfg (cmdChalB s.cfg ch0 ch1) 4 1 s.env.afterXfer.xferPops)).setEnv
    (s.env.afterXfers 2)).setTrace
    (s.trace ++ xferCalls s.cfg (cmdChalA s.cfg ch0 ch1) s.env ++
      xferCalls s.cfg (cmdChalB s.cfg ch0 ch1) s.env.afterXfer)).setSeq
    { s.seq with resp0 := .holding s.env.xferAnswer, resp1 := .holding s.env.afterXfer.xferAnswer }

theorem asked_inputs (ch0 ch1 : Word) (s : State) : (asked ch0 ch1 s).inputs = s.inputs := rfl

theorem askChallenges_answers (ch0 ch1 : Word) {s : State} (h : s.promptStatus) :
    askChallenges ch0 ch1 s = .ok (s.env.xferAnswer, s.env.afterXfer.xferAnswer) (asked ch0 ch1 s) := by
  have h' : ((afterXferWord (cmdChalA s.cfg ch0 ch1) s).setSeq
      { s.seq with resp0 := .holding s.env.xferAnswer }).promptStatus :=
    promptStatus_afterXferWord (c := cmdChalA s.cfg ch0 ch1) (s := s) h
  unfold askChallenges putResp0 putResp1
  rw [Op.bind_ok (peek_apply _ _), Op.bind_ok (xferWord_answers _ h), Op.bind_ok (change_apply _ _),
    Op.bind_ok (peek_apply _ _)]
  simp only [State.setSeq_cfg, afterXferWord_cfg, afterXferWord_seq]
  rw [Op.bind_ok (xferWord_answers _ h'), Op.bind_ok (change_apply _ _)]
  simp [asked, afterXferWord, Env.afterXfers, State.setTransport, State.setEnv, State.setTrace, State.setSeq]

theorem afterXfers_statusRest (e : Env) (n : Nat) : (e.afterXfers n).statusRest = e.statusRest := by
  induction n with
  | zero => rfl
  | succ n ih => rw [Env.afterXfers, Env.afterXfer_statusRest, ih]

theorem promptStatus_asked {ch0 ch1 : Word} {s : State} (h : s.promptStatus) : (asked ch0 ch1 s).promptStatus :=
  ⟨h.1, h.2.1, (afterXfers_statusRest s.env 2).trans h.2.2⟩

/-- The state after the confirmation command (R265). -/
def confirmSent (ch0 ch1 : Word) (s : State) : State :=
  ((s.setTransport (regsAfter s.cfg (cmdConfirm s.cfg ch0 ch1) 0 1 0)).setEnv
    (s.env.withStatus (transferLeft s.env.status 0))).setTrace
    (s.trace ++ [.ctrCmdWrite (cmdConfirm s.cfg ch0 ch1), .ctrStart s.cfg.pageCode.code0 1])

theorem confirm_answers (ch0 ch1 : Word) {s : State} (h : s.promptStatus) :
    confirm ch0 ch1 s = .ok () (confirmSent ch0 ch1 s) := by
  have length : transferLength 0 1 = 0 := rfl
  have sent := transfer_answers (cmdConfirm s.cfg ch0 ch1) 0 1 .discard s h (by rw [length]; decide)
  rw [length, Nat.zero_div, Nat.le_zero.1 (transferPops_le s.env.status 0)] at sent
  unfold confirm
  rw [Op.bind_ok (peek_apply _ _), Op.bind_ok sent]
  rfl

/-- The state after a failed comparison (R260, R283). -/
def mismatched (r0 r1 : Word) (s : State) : State :=
  (s.setSeq { s.seq with respMismatch := true }).setLog
    (s.log ++ [if r0 = s.inputs.idword.val then .mismatchResponse 1 s.inputs.capresp.val r1
      else .mismatchResponse 0 s.inputs.idword.val r0])

/-- The state after the comparison of both answers. -/
def compared (ch0 ch1 r0 r1 : Word) (s : State) : State :=
  if r0 = s.inputs.idword.val ∧ r1 = s.inputs.capresp.val then confirmSent ch0 ch1 s else mismatched r0 r1 s

theorem readIdword_apply {s : State} (h : s.inputs.idword.written = true) :
    readIdword s = .ok s.inputs.idword.val s := readReg_written (f := (·.inputs.idword)) _ h

theorem readCapresp_apply {s : State} (h : s.inputs.capresp.written = true) :
    readCapresp s = .ok s.inputs.capresp.val s := readReg_written (f := (·.inputs.capresp)) _ h

theorem compareAnswers_apply (ch0 ch1 r0 r1 : Word) {s : State} (hid : s.inputs.idword.written = true)
    (hcap : s.inputs.capresp.written = true) (h : s.promptStatus) :
    compareAnswers ch0 ch1 r0 r1 s = .ok () (compared ch0 ch1 r0 r1 s) := by
  unfold compareAnswers
  rw [Op.bind_ok (readIdword_apply hid), Op.bind_ok (readCapresp_apply hcap), compared]
  by_cases same : r0 = s.inputs.idword.val ∧ r1 = s.inputs.capresp.val
  · rw [if_pos same, if_pos (by simpa [answersMatch] using same), confirm_answers ch0 ch1 h]
  · have differs : answersMatch r0 r1 s.inputs.idword.val s.inputs.capresp.val = false := by
      simpa [answersMatch] using same
    rw [if_neg same, differs, if_neg Bool.false_ne_true, responseMismatched, Op.bind_ok (change_apply _ _), logEntry_apply,
      respMismatchAfter, differs]
    simp [mismatched, responseMismatch]

/-- IDWORD is the first input the comparison reads, CAPRESP the second (log 20, log 24). -/
theorem compareAnswers_unwritten (ch0 ch1 r0 r1 : Word) {s : State} {input : Element}
    (unwritten : input = .idword ∧ s.inputs.idword.written = false ∨
      input = .capresp ∧ s.inputs.idword.written = true ∧ s.inputs.capresp.written = false) :
    compareAnswers ch0 ch1 r0 r1 s = .error (.event (.uninit input)) s := by
  unfold compareAnswers
  obtain ⟨rfl, hid⟩ | ⟨rfl, hid, hcap⟩ := unwritten
  · rw [Op.bind_error (by rw [readIdword, readReg_apply, hid]; rfl)]
  · rw [Op.bind_ok (readIdword_apply hid), Op.bind_error (by rw [readCapresp, readReg_apply, hcap]; rfl)]

theorem promptStatus_compared {ch0 ch1 r0 r1 : Word} {s : State} (h : s.promptStatus) :
    (compared ch0 ch1 r0 r1 s).promptStatus := by
  unfold compared
  split
  · exact h
  · exact h

/-! The whole sequence. -/

/-- What the sequence has programmed when it asks: the two seeds (R261, R262). -/
def seedCalls (key : Nat) (seed1 seed2 : Quad) : List EnvCall :=
  [.ctrSecKey key, .ctrSecSeed seed1, .ctrSecKey key, .ctrSecSeed seed2]

/-- The second seed: the session's output with the byte-swapped challenge (R262). -/
def challengeSeed (ch0 ch1 : Word) (pt : Quad) : Quad := ⟨pt.w0, pt.w1, bswap32 ch0, bswap32 ch1⟩

/-- The state in which the challenges are asked. -/
def handshakeStart (ch0 ch1 : Word) (dev : BitVec 1) (s : State) : State :=
  ((((s.setTrace (s.trace ++ sessionCalls s dev ++
      seedCalls s.secKey (specSession s dev).1 (challengeSeed ch0 ch1 (specSession s dev).1))).setEnv
    ((s.env.afterAccept.afterDraws 2).afterAccepts 4)).setAes
    { s.aes with
      aesout := .holding (challengeSeed ch0 ch1 (specSession s dev).1)
      macv := (specSession s dev).2 }).setLog (s.log ++ macLog (specSession s dev).2)).setDev
    { s.dev with secKey := s.secKey, secSeed := challengeSeed ch0 ch1 (specSession s dev).1 }

theorem handshakeStart_inputs (ch0 ch1 : Word) (dev : BitVec 1) (s : State) :
    (handshakeStart ch0 ch1 dev s).inputs = s.inputs := by simp [handshakeStart]

theorem seeded_sessionDrawn (ch0 ch1 : Word) (dev : BitVec 1) (s : State) :
    seeded ch0 ch1 (sessionDrawn dev s) = handshakeStart ch0 ch1 dev s := by
  simp [seeded, seedProgrammed, challenged, sessionDrawn, sessionEnded, handshakeStart, seedCalls, challengeSeed,
    State.secKey, Env.afterAccepts, Reg.holding, State.setTrace, State.setEnv, State.setAes, State.setLog, State.setDev]

theorem seedAndAsk_asked {ch0 ch1 : Word} {s : State} (accepts : s.promptAccepts) (status : s.promptStatus)
    (cap : s.cfg.secKeyIndex = none → s.inputs.capresp.written = true) :
    seedAndAsk ch0 ch1 s =
      (compareAnswers ch0 ch1 (seeded ch0 ch1 s).env.xferAnswer (seeded ch0 ch1 s).env.afterXfer.xferAnswer >>= fun _ =>
        resends ch0 ch1 5) (asked ch0 ch1 (seeded ch0 ch1 s)) := by
  have programmed : programSeed s = .ok () (seedProgrammed s) := programSeed_answers accepts cap
  have again : programSeed (challenged ch0 ch1 (seedProgrammed s)) = .ok () (seeded ch0 ch1 s) :=
    programSeed_answers (promptAccepts_challenged (promptAccepts_seedProgrammed accepts)) cap
  have prompt : (seeded ch0 ch1 s).promptStatus :=
    promptStatus_seedProgrammed (promptStatus_challenged (promptStatus_seedProgrammed status))
  unfold seedAndAsk putChallenge
  rw [Op.bind_ok programmed, Op.bind_ok (change_apply _ _)]
  refine (Op.bind_ok again).trans ?_
  rw [Op.bind_ok (askChallenges_answers ch0 ch1 prompt)]

theorem promptStatus_handshakeStart {ch0 ch1 : Word} {dev : BitVec 1} {s : State} (h : s.promptStatus) :
    (handshakeStart ch0 ch1 dev s).promptStatus :=
  seeded_sessionDrawn ch0 ch1 dev s ▸
    promptStatus_seedProgrammed (promptStatus_challenged (promptStatus_seedProgrammed (promptStatus_sessionDrawn h)))

/-- CTR.UNLOCK up to the comparison: the session, the draws, the seeds, the challenges. -/
theorem ctrUnlock_asked {dev : BitVec 1} {s : State} (ready : s.sessionReady dev) (status : s.promptStatus)
    (accepts : s.promptAccepts) (cap : s.cfg.secKeyIndex = none → s.inputs.capresp.written = true) {ch0 ch1 : Word}
    (h0 : s.env.afterAccept.drawAt 0 = ch0) (h1 : s.env.afterAccept.drawAt 1 = ch1) :
    ctrUnlock dev s =
      (compareAnswers ch0 ch1 (handshakeStart ch0 ch1 dev s).env.xferAnswer
        (handshakeStart ch0 ch1 dev s).env.afterXfer.xferAnswer >>= fun _ => resends ch0 ch1 5)
        (asked ch0 ch1 (handshakeStart ch0 ch1 dev s)) := by
  rw [ctrUnlock_drawn ready accepts, h0, h1,
    seedAndAsk_asked (promptAccepts_sessionDrawn accepts) (promptStatus_sessionDrawn status) cap, seeded_sessionDrawn]

section Handshake

variable (ch0 ch1 : Word) (u : State)

/-- Both answers are the expected ones (R264). -/
abbrev Confirms (e : Env) (i : Inputs) : Prop := e.xferAnswer = i.idword.val ∧ e.afterXfer.xferAnswer = i.capresp.val

/-- The state after the comparison, from the one in which the challenges are asked. -/
def comparedFrom : State := compared ch0 ch1 u.env.xferAnswer u.env.afterXfer.xferAnswer (asked ch0 ch1 u)

theorem comparedFrom_confirmed (h : Confirms u.env u.inputs) :
    comparedFrom ch0 ch1 u = confirmSent ch0 ch1 (asked ch0 ch1 u) :=
  if_pos h

theorem comparedFrom_mismatched (h : ¬ Confirms u.env u.inputs) :
    comparedFrom ch0 ch1 u = mismatched u.env.xferAnswer u.env.afterXfer.xferAnswer (asked ch0 ch1 u) :=
  if_neg h

theorem comparedFrom_env :
    (comparedFrom ch0 ch1 u).env =
      if Confirms u.env u.inputs then (u.env.afterXfers 2).withStatus (transferLeft (u.env.afterXfers 2).status 0)
      else u.env.afterXfers 2 := by
  by_cases h : Confirms u.env u.inputs
  · rw [comparedFrom_confirmed _ _ _ h, if_pos h]
    simp [confirmSent, asked]
  · rw [comparedFrom_mismatched _ _ _ h, if_neg h]
    simp [mismatched, asked]

theorem comparedFrom_trace :
    (comparedFrom ch0 ch1 u).trace =
      u.trace ++ xferCalls u.cfg (cmdChalA u.cfg ch0 ch1) u.env ++
          xferCalls u.cfg (cmdChalB u.cfg ch0 ch1) u.env.afterXfer ++
        if Confirms u.env u.inputs then
          [.ctrCmdWrite (cmdConfirm u.cfg ch0 ch1), .ctrStart u.cfg.pageCode.code0 1]
        else [] := by
  by_cases h : Confirms u.env u.inputs
  · rw [comparedFrom_confirmed _ _ _ h, if_pos h]
    simp [confirmSent, asked]
  · rw [comparedFrom_mismatched _ _ _ h, if_neg h]
    simp [mismatched, asked]

theorem comparedFrom_seq :
    (comparedFrom ch0 ch1 u).seq = { u.seq with
      resp0 := .holding u.env.xferAnswer
      resp1 := .holding u.env.afterXfer.xferAnswer
      respMismatch := u.seq.respMismatch || !decide (Confirms u.env u.inputs) } := by
  by_cases h : Confirms u.env u.inputs
  · rw [comparedFrom_confirmed _ _ _ h, decide_eq_true h]
    simp [confirmSent, asked]
  · rw [comparedFrom_mismatched _ _ _ h, decide_eq_false h]
    simp [mismatched, asked]

theorem comparedFrom_log :
    (comparedFrom ch0 ch1 u).log = u.log ++
      if Confirms u.env u.inputs then []
      else if u.env.xferAnswer = u.inputs.idword.val then
        [.mismatchResponse 1 u.inputs.capresp.val u.env.afterXfer.xferAnswer]
      else [.mismatchResponse 0 u.inputs.idword.val u.env.xferAnswer] := by
  by_cases h : Confirms u.env u.inputs
  · rw [comparedFrom_confirmed _ _ _ h, if_pos h]
    simp [confirmSent, asked]
  · rw [comparedFrom_mismatched _ _ _ h, if_neg h]
    simp [mismatched, asked, apply_ite fun e => [e]]

/-- The comparison writes the transfer registers, the flag and the log, and calls the environment. -/
theorem comparedFrom_keeps :
    (comparedFrom ch0 ch1 u).cfg = u.cfg ∧ (comparedFrom ch0 ch1 u).cipher = u.cipher ∧
      (comparedFrom ch0 ch1 u).command = u.command ∧ (comparedFrom ch0 ch1 u).area = u.area ∧
      (comparedFrom ch0 ch1 u).aes = u.aes ∧ (comparedFrom ch0 ch1 u).inputs = u.inputs ∧
      (comparedFrom ch0 ch1 u).mem = u.mem ∧ (comparedFrom ch0 ch1 u).hung = u.hung ∧
      (comparedFrom ch0 ch1 u).inbox = u.inbox ∧ (comparedFrom ch0 ch1 u).dev = u.dev := by
  by_cases h : Confirms u.env u.inputs
  · rw [comparedFrom_confirmed _ _ _ h]
    simp [confirmSent, asked]
  · rw [comparedFrom_mismatched _ _ _ h]
    simp [mismatched, asked]

end Handshake

/-- The state after `n + 1` resends (R266). -/
def resent (ch0 ch1 : Word) (n : Nat) (s : State) : State :=
  (((s.setTransport ⟨.holding (cmdChalA s.cfg ch0 ch1), .holding 4, .holding s.cfg.pageCode.code4, .holding 1, .holding 4,
      .holding (BitVec.ofNat 32 (4 * (s.env.afterXfers n).xferPops))⟩).setEnv (s.env.afterXfers (n + 1))).setTrace
    (s.trace ++ resendCalls s.cfg (cmdChalA s.cfg ch0 ch1) (n + 1) s.env)).setSeq
    { s.seq with resp0 := .holding (s.env.afterXfers n).xferAnswer }

theorem resends_resent (ch0 ch1 : Word) (n : Nat) {s : State} (h : s.promptStatus) :
    resends ch0 ch1 (n + 1) s = .ok () (resent ch0 ch1 n s) :=
  resends_answers ch0 ch1 n h

/-- Without an index and without CAPRESP the sequence stops in the first seed programming. -/
theorem exec_ctrUnlock_no_capresp {dev : BitVec 1} {s : State} (ready : s.sessionReady dev)
    (accepts : s.promptAccepts) (index : s.cfg.secKeyIndex = none)
    (hcap : s.inputs.capresp.written = false) :
    exec (.ctrUnlock dev) s = .next ((sessionDrawn dev s).uninitialised .capresp) := by
  have stops := programSeed_no_capresp (s := sessionDrawn dev s) index hcap
  exact perform_error (Op.bind_error ((ctrUnlock_drawn ready accepts).trans (Op.bind_error stops)))

section Outcome

variable {dev : BitVec 1} {s : State} (ready : s.sessionReady dev) (status : s.promptStatus) (accepts : s.promptAccepts)
  {ch0 ch1 : Word} (h0 : s.env.afterAccept.drawAt 0 = ch0) (h1 : s.env.afterAccept.drawAt 1 = ch1)
include ready status accepts h0 h1

/-- With its inputs written the sequence completes. -/
theorem exec_ctrUnlock_completes (hid : s.inputs.idword.written = true) (hcap : s.inputs.capresp.written = true) :
    exec (.ctrUnlock dev) s = .next
      ((resent ch0 ch1 4 (comparedFrom ch0 ch1 (handshakeStart ch0 ch1 dev s))).setResponse (some .done)) := by
  have inputs := handshakeStart_inputs ch0 ch1 dev s
  have prompt : (asked ch0 ch1 (handshakeStart ch0 ch1 dev s)).promptStatus :=
    promptStatus_asked (promptStatus_handshakeStart status)
  have asks := ctrUnlock_asked ready status accepts (fun _ => hcap) h0 h1
  have compares := compareAnswers_apply ch0 ch1 (handshakeStart ch0 ch1 dev s).env.xferAnswer
    (handshakeStart ch0 ch1 dev s).env.afterXfer.xferAnswer (by rw [asked_inputs, inputs, hid])
    (by rw [asked_inputs, inputs, hcap]) prompt
  have again := resends_resent ch0 ch1 4 (promptStatus_compared (ch0 := ch0) (ch1 := ch1)
    (r0 := (handshakeStart ch0 ch1 dev s).env.xferAnswer)
    (r1 := (handshakeStart ch0 ch1 dev s).env.afterXfer.xferAnswer) prompt)
  exact perform_ok (Op.bind_ok (asks.trans ((Op.bind_ok compares).trans again)))

/-- Without an input of the comparison it stops there, with both answers kept. -/
theorem exec_ctrUnlock_no_input {input : Element}
    (unwritten : input = .idword ∧ s.inputs.idword.written = false ∨
      input = .capresp ∧ s.inputs.idword.written = true ∧ s.inputs.capresp.written = false)
    (hcap : s.cfg.secKeyIndex = none → s.inputs.capresp.written = true) :
    exec (.ctrUnlock dev) s = .next ((asked ch0 ch1 (handshakeStart ch0 ch1 dev s)).uninitialised input) := by
  have inputs := handshakeStart_inputs ch0 ch1 dev s
  have stops := compareAnswers_unwritten ch0 ch1 (handshakeStart ch0 ch1 dev s).env.xferAnswer
    (handshakeStart ch0 ch1 dev s).env.afterXfer.xferAnswer (s := asked ch0 ch1 (handshakeStart ch0 ch1 dev s))
    (input := input) (by rw [asked_inputs, inputs]; exact unwritten)
  exact perform_error (Op.bind_error ((ctrUnlock_asked ready status accepts hcap h0 h1).trans (Op.bind_error stops)))

end Outcome

/-- Settles O52: a case split on the comparison, each outcome read off the final state layer by layer. -/
theorem ctrUnlockRunsTheHandshake : Obligations.CtrUnlockRunsTheHandshake := by
  intro dev s ready status accepts
  dsimp only
  refine ⟨fun hid hcap => ?_, fun index hcap => ?_, fun input unwritten hcap => ?_⟩
  · refine ⟨_, exec_ctrUnlock_completes ready status accepts rfl rfl hid hcap, rfl, ?_⟩
    by_cases first : ((s.env.afterAccept.afterDraws 2).afterAccepts 4).xferAnswer = s.inputs.idword.val
    · by_cases second : ((s.env.afterAccept.afterDraws 2).afterAccepts 4).afterXfer.xferAnswer = s.inputs.capresp.val <;>
        simp [resent, comparedFrom_env, comparedFrom_trace, comparedFrom_seq, comparedFrom_log, comparedFrom_keeps,
          handshakeStart, seedCalls, challengeSeed, State.secKey, Confirms, first, second]
    · simp [resent, comparedFrom_env, comparedFrom_trace, comparedFrom_seq, comparedFrom_log, comparedFrom_keeps,
        handshakeStart, seedCalls, challengeSeed, State.secKey, Confirms, first]
  · refine ⟨_, exec_ctrUnlock_no_capresp ready accepts index hcap, rfl, ?_⟩
    simp [State.uninitialised, sessionDrawn, sessionEnded]
  · refine ⟨_, exec_ctrUnlock_no_input ready status accepts rfl rfl unwritten hcap, rfl, ?_⟩
    simp [State.uninitialised, asked, handshakeStart, seedCalls, challengeSeed, State.secKey]

end Sys2Proof.Machine
end

section
/-! PROOFS. The store paths (45_ctr_transport.md R216, 20_memory.md R62, R67): at an aligned destination the word store
is the four byte stores, so one reading rule serves both paths. -/

namespace Sys2Proof.Machine

/-- The four byte stores of a word, least significant byte first, at addresses modulo 2^32: the slow path of R216. -/
def memWriteBytes (m : Memory) (a w : Word) : Memory :=
  memWriteByte (memWriteByte (memWriteByte (memWriteByte m a (byteOf w 0)) (a + 1) (byteOf w 1)) (a + 2) (byteOf w 2))
    (a + 3) (byteOf w 3)

theorem toNat_mod_four_of_lowBits {a : Word} (low : a.extractLsb' 0 2 = 0#2) : a.toNat % 4 = 0 := by
  simpa using congrArg BitVec.toNat low

/-- A word at an aligned address does not pass the end of the address space. -/
theorem toNat_add_of_aligned {a j : Word} (aligned : a.toNat % 4 = 0) (hj : j.toNat < 4) :
    (a + j).toNat = a.toNat + j.toNat := by
  have := a.isLt
  rw [BitVec.toNat_add]
  omega

/-- At an aligned address the word store is the four byte stores. -/
theorem memWriteWord_of_aligned (m : Memory) {a : Word} (w : Word) (aligned : a.toNat % 4 = 0) :
    memWriteWord m a w = memWriteBytes m a w := by
  unfold memWriteWord memWriteBytes memWriteByte
  rw [toNat_add_of_aligned (j := 1) aligned (by decide), toNat_add_of_aligned (j := 2) aligned (by decide),
    toNat_add_of_aligned (j := 3) aligned (by decide)]
  rfl

/-- Both store paths leave what the four byte stores leave: the destination alone picks the path, and a count that is a
multiple of four keeps its alignment. -/
theorem storeAt_eq_memWriteBytes (m : Memory) {dest cnt : Word} (w : Word) (counted : cnt.toNat % 4 = 0) :
    storeAt m dest cnt w = memWriteBytes m (dest + cnt) w := by
  unfold storeAt storeSteps
  by_cases low : dest.extractLsb' 0 2 = 0#2
  · have aligned : (dest + cnt).toNat % 4 = 0 := by
      have := toNat_mod_four_of_lowBits low
      rw [BitVec.toNat_add]
      omega
    simp only [low, if_true]
    exact memWriteWord_of_aligned m w aligned
  · simp only [low, if_false]
    rfl

/-- The four bytes of a word go to four different addresses, wherever it starts. -/
theorem byteAddresses_nodup (p : Word) : [p.toNat, (p + 1).toNat, (p + 2).toNat, (p + 3).toNat].Nodup := by
  have injective : Function.Injective fun j : Word => (p + j).toNat := fun _ _ same =>
    (BitVec.add_right_inj p).1 (BitVec.eq_of_toNat_eq same)
  have offsets : ([0, 1, 2, 3] : List Word).Nodup := by decide
  simpa only [List.map, add_zero] using offsets.map injective

/-- Writes at different addresses do not hide one another, so the read may look for the first address first. -/
theorem Memory.read_four_writes (m : Memory) {a₀ a₁ a₂ a₃ : Nat} (apart : [a₀, a₁, a₂, a₃].Nodup)
    (v₀ v₁ v₂ v₃ : Byte) (a : Nat) :
    Memory.read (Memory.write (Memory.write (Memory.write (Memory.write m a₀ v₀) a₁ v₁) a₂ v₂) a₃ v₃) a =
      if a = a₀ then some v₀ else if a = a₁ then some v₁ else if a = a₂ then some v₂ else if a = a₃ then some v₃
      else Memory.read m a := by
  simp only [List.nodup_cons, List.mem_cons, List.not_mem_nil, or_false, not_or] at apart
  obtain ⟨⟨h₀₁, h₀₂, h₀₃⟩, ⟨h₁₂, h₁₃⟩, h₂₃, -⟩ := apart
  simp only [Memory.read_write, eq_comm (b := a)]
  by_cases at₀ : a = a₀
  · simp [at₀, h₀₁, h₀₂, h₀₃]
  by_cases at₁ : a = a₁
  · simp [at₁, Ne.symm h₀₁, h₁₂, h₁₃]
  by_cases at₂ : a = a₂
  · simp [at₂, Ne.symm h₀₂, Ne.symm h₁₂, h₂₃]
  simp [at₀, at₁, at₂]

/-- Settles O43: both paths are the four byte stores, whose reading rule is the statement. -/
theorem storeLeavesTheSameFourBytes : Obligations.StoreLeavesTheSameFourBytes := by
  intro m dest cnt w a counted
  rw [storeAt_eq_memWriteBytes m w counted]
  exact Memory.read_four_writes m (byteAddresses_nodup (dest + cnt)) _ _ _ _ a

end Sys2Proof.Machine
end

section
/-! PROOFS. The decoder and the encoder (30_encoding.md R90 to R104): from the bits of an instruction the decoder reads
its well-formed spelling, it reads nothing from other bits, and it rejects reserved bits by name. -/

namespace Sys2Proof

/-! Fields of bit strings. -/

/-- `field_append_high`, also where the width of the whole is written as one number. -/
theorem field_high {n m : Nat} (a : BitVec n) (b : BitVec m) {lo len : Nat} (h : m ≤ lo) :
    field (no_index (a ++ b)) lo len = field a (lo - m) len := field_append_high a b h

/-- `field_append_low`, also where the width of the whole is written as one number. -/
theorem field_low {n m : Nat} (a : BitVec n) (b : BitVec m) {lo len : Nat} (h : lo + len ≤ m) :
    field (no_index (a ++ b)) lo len = field b lo len := field_append_low a b h

/-- Two fields that meet are one field. -/
theorem field_append_field {n : Nat} (v : BitVec n) {hi lo len len' : Nat} (meet : hi = lo + len) :
    field v hi len' ++ field v lo len = field v lo (len' + len) :=
  BitVec.extractLsb'_append_extractLsb'_eq_extractLsb' meet

/-- A field of a field. -/
theorem field_field {n : Nat} (v : BitVec n) {lo len lo' len' : Nat} (inside : lo' + len' ≤ len) :
    field (field v lo len) lo' len' = field v (lo + lo') len' := by
  apply BitVec.eq_of_getLsbD_eq
  intro i hi
  simp only [field, BitVec.getLsbD_extractLsb']
  rw [decide_eq_true (show lo' + i < len by omega), Bool.true_and, add_assoc]

theorem field_toNat {n : Nat} (v : BitVec n) (lo len : Nat) :
    (field v lo len).toNat = v.toNat / 2 ^ lo % 2 ^ len := by
  rw [field, BitVec.extractLsb'_toNat, Nat.shiftRight_eq_div_pow]

/-- A request whose number fits its width is a bit vector. -/
theorem exists_asRequest {r : Request} (fits : r.bits < 2 ^ r.nbits) : ∃ (n : Nat) (v : BitVec n), asRequest v = r :=
  ⟨r.nbits, BitVec.ofNat r.nbits r.bits, by rw [asRequest, BitVec.toNat_ofNat, Nat.mod_eq_of_lt fits]⟩

/-! Must-be-zero bits (R93). -/

theorem unlessReserved_zero (n : Nat) (i : Instr) : unlessReserved 0#n i = .ok i := if_pos rfl

theorem unlessReserved_nonzero {n : Nat} {mbz : BitVec n} (h : mbz ≠ 0) (i : Instr) :
    unlessReserved mbz i = .error .reservedBits := if_neg h

theorem unlessReserved_eq_ok {n : Nat} {mbz : BitVec n} {i j : Instr} (h : unlessReserved mbz j = .ok i) :
    mbz = 0#n ∧ i = j := by
  by_cases zero : mbz = 0
  · rw [unlessReserved, if_pos zero] at h
    exact ⟨zero, (Except.ok.inj h).symm⟩
  · rw [unlessReserved_nonzero zero] at h
    cases h

/-! What each format reads from its fields in order, whatever OPSEL is (R91). -/

theorem readB_append (sel : BitVec 8) (w1 w0 : Word) (mk : Word → Word → Instr) :
    readB (sel ++ w1 ++ w0) mk = .ok (mk w0 w1) := by
  simp [readB, field_high, field_low, field_whole]

theorem readBit_append (sel : BitVec 8) (mbz : BitVec 7) (x : BitVec 1) (mk : BitVec 1 → Instr) :
    readBit (sel ++ mbz ++ x) mk = unlessReserved mbz (mk x) := by
  simp [readBit, field_high, field_low, field_whole]

theorem readK_append (sel : BitVec 8) (mbz : BitVec 6) (gen stage : BitVec 1) (code : Word) :
    readK (sel ++ mbz ++ gen ++ stage ++ code) = unlessReserved mbz (.ksInit code stage gen) := by
  simp [readK, field_high, field_low, field_whole]

theorem readS_append (sel : BitVec 8) (mbz : BitVec 7) (gen : BitVec 1) (code : Word) :
    readS (sel ++ mbz ++ gen ++ code) = unlessReserved mbz (.saDecrypt code gen) := by
  simp [readS, field_high, field_low, field_whole]

theorem readC_append (sel op : BitVec 8) (blk : BitVec 16) : readC (sel ++ op ++ blk) = .ok (readCmdBuild op blk) := by
  simp [readC, field_high, field_low, field_whole]

theorem readX_append (sel : BitVec 8) (c0 c1 c2 c3 pagesize blocks : Word) (mbz : BitVec 7) (dv : BitVec 1)
    (dest : Word) :
    readX (sel ++ c0 ++ c1 ++ c2 ++ c3 ++ pagesize ++ blocks ++ mbz ++ dv ++ dest) =
      unlessReserved mbz (readCtrXfer c0 c1 c2 c3 pagesize blocks dv dest) := by
  simp [readX, field_high, field_low, field_whole]

/-! The decoder of frames on the rows' words (R94, R95, R97, R250). -/

theorem decodeFrame_actKey1G0 (p q : BitVec 12) (c : BitVec 20) (e : BitVec 8) :
    decodeFrame (wordActKey1 0x3C p q c e) = .ok (.frameActivateKey1G0 p q c e) := by
  simp [decodeFrame, wordActKey1, field_high, field_low, field_whole, unlessReserved_zero]

theorem decodeFrame_actKey1G1 (p q : BitVec 12) (c : BitVec 20) (e : BitVec 8) :
    decodeFrame (wordActKey1 0x3D p q c e) = .ok (.frameActivateKey1G1 p q c e) := by
  simp [decodeFrame, wordActKey1, field_high, field_low, field_whole, unlessReserved_zero]

theorem decodeFrame_dataRead (a : Word) : decodeFrame (0xB7#8 ++ a ++ 0#24) = .ok (.frameDataRead a) := by
  simp [decodeFrame, field_high, field_low, field_whole, unlessReserved_zero]

/-- A frame with another opcode nibble has another opcode byte. -/
theorem wordFrame_byte_ne {op : BitVec 4} {byte : BitVec 8} (h : op ≠ field byte 4 4) (b : BitVec 16) (p q : BitVec 12)
    (c : BitVec 20) : field (wordFrame op b p q c) 56 8 ≠ byte := by
  intro same
  refine h ?_
  rw [← same, field_field _ (by decide)]
  simp [wordFrame, field_high, field_whole]

theorem decodeFrame_wordFrame {op : BitVec 4} (activate : op ≠ 0x3) (dataRead : op ≠ 0xB) (b : BitVec 16)
    (p q : BitVec 12) (c : BitVec 20) :
    decodeFrame (wordFrame op b p q c) =
      if op = 0x4 then .ok (.frameActivateSec b p q c)
      else if op = 0x1 then .ok (.frameSecureChipid b p q c)
      else if op = 0x2 then .ok (.frameSecureRead b p q c)
      else if op = 0xA then .ok (.frameDataMode b p q c)
      else .error .frame := by
  have g0 := wordFrame_byte_ne (byte := 0x3C#8) activate b p q c
  have g1 := wordFrame_byte_ne (byte := 0x3D#8) activate b p q c
  have read := wordFrame_byte_ne (byte := 0xB7#8) dataRead b p q c
  simp only [decodeFrame, g0, g1, read, if_false]
  simp [wordFrame, field_high, field_low, field_whole]

/-! The well-formed spelling (R103, log 13). -/

theorem readCmdBuild_of_not_pseudo {op : BitVec 8} {blk : BitVec 16} (h : isCmdPseudo op blk = false) :
    readCmdBuild op blk = .cmdBuild op blk := by
  simp only [isCmdPseudo, Bool.or_eq_false_iff, Bool.and_eq_false_iff, beq_eq_false_iff_ne] at h
  obtain ⟨secread, rows⟩ := h
  rw [readCmdBuild, if_neg secread, if_neg (by tauto), if_neg (by tauto), if_neg (by tauto)]

theorem wellFormed_readCmdBuild (op : BitVec 8) (blk : BitVec 16) : (readCmdBuild op blk).wellFormed = true := by
  cases h : isCmdPseudo op blk with
  | false => rw [readCmdBuild_of_not_pseudo h, Instr.wellFormed, h, Bool.not_false]
  | true =>
    simp only [isCmdPseudo, Bool.or_eq_true, Bool.and_eq_true, beq_iff_eq] at h
    obtain rfl | ⟨(rfl | rfl) | rfl, rfl⟩ := h <;> rfl

theorem wellFormed_canonical (i : Instr) : i.canonical.wellFormed = true := by
  cases i with
  | cmdBuild op blk => exact wellFormed_readCmdBuild op blk
  | ctrXfer c0 c1 c2 c3 pagesize blocks dv dest =>
    rw [Instr.canonical, readCtrXfer]
    split_ifs with send
    · rfl
    · simpa [Instr.wellFormed] using send
  | _ => rfl

theorem canonical_of_wellFormed {i : Instr} (h : i.wellFormed = true) : i.canonical = i := by
  cases i with
  | cmdBuild op blk =>
    simp only [Instr.wellFormed, Bool.not_eq_true'] at h
    exact readCmdBuild_of_not_pseudo h
  | ctrXfer c0 c1 c2 c3 pagesize blocks dv dest =>
    simp only [Instr.wellFormed, Bool.not_eq_true'] at h
    rw [Instr.canonical, readCtrXfer, h]
    rfl
  | ksLight | ksFull => cases h
  | _ => rfl

theorem encode_canonical (i : Instr) : encode i.canonical = encode i := by
  cases i with
  | cmdBuild op blk =>
    rw [Instr.canonical, readCmdBuild]
    split_ifs with secread actsec chipid datamode
    · rw [secread]; rfl
    · rw [actsec.1, actsec.2]; rfl
    · rw [chipid.1, chipid.2]; rfl
    · rw [datamode.1, datamode.2]; rfl
    · rfl
  | ctrXfer c0 c1 c2 c3 pagesize blocks dv dest =>
    rw [Instr.canonical, readCtrXfer]
    split_ifs with send
    · simp only [isCtrSend, Bool.and_eq_true, beq_iff_eq] at send
      obtain ⟨⟨rfl, rfl⟩, rfl⟩ := send
      rfl
    · rfl
  | _ => rfl

/-! The decoder on the encoder's words. -/

/-- A request whose OPSEL is a row's is read in that row's format. -/
theorem decode_of_row {n : Nat} {sel : BitVec 8} {read : BitVec n → Except Reject Instr}
    (row : ∀ r, decodeOp sel.toNat r = ofWidth n r read) {v : BitVec n} (opsel : field v (n - 8) 8 = sel)
    (wide : 8 ≤ n := by decide) (noFrame : n ≠ 64 := by decide) : decode (asRequest v) = read v := by
  rw [decode_asRequest v wide noFrame, opsel, row, ofWidth_asRequest]

theorem decode_readB {sel : BitVec 8} {mk : Word → Word → Instr}
    (row : ∀ r, decodeOp sel.toNat r = ofWidth 72 r (readB · mk)) (w0 w1 : Word) :
    decode (asRequest (sel ++ w1 ++ w0)) = .ok (mk w0 w1) :=
  (decode_of_row row (by simp [field_high, field_whole])).trans (readB_append sel w1 w0 mk)

theorem decode_readBit {sel : BitVec 8} {mk : BitVec 1 → Instr}
    (row : ∀ r, decodeOp sel.toNat r = ofWidth 16 r (readBit · mk)) (mbz : BitVec 7) (x : BitVec 1) :
    decode (asRequest (sel ++ mbz ++ x)) = unlessReserved mbz (mk x) :=
  (decode_of_row row (by simp [field_high, field_whole])).trans (readBit_append sel mbz x mk)

theorem decode_readK (mbz : BitVec 6) (gen stage : BitVec 1) (code : Word) :
    decode (asRequest (0x20#8 ++ mbz ++ gen ++ stage ++ code)) = unlessReserved mbz (.ksInit code stage gen) :=
  (decode_of_row (sel := 0x20#8) decodeOp_ksInit (by simp [field_high, field_whole])).trans
    (readK_append 0x20 mbz gen stage code)

theorem decode_readS (mbz : BitVec 7) (gen : BitVec 1) (code : Word) :
    decode (asRequest (0x40#8 ++ mbz ++ gen ++ code)) = unlessReserved mbz (.saDecrypt code gen) :=
  (decode_of_row (sel := 0x40#8) decodeOp_saDecrypt (by simp [field_high, field_whole])).trans
    (readS_append 0x40 mbz gen code)

theorem decode_readC (op : BitVec 8) (blk : BitVec 16) :
    decode (asRequest (0x32#8 ++ op ++ blk)) = .ok (readCmdBuild op blk) :=
  (decode_of_row (sel := 0x32#8) decodeOp_cmdBuild (by simp [field_high, field_whole])).trans (readC_append 0x32 op blk)

theorem decode_wordX (c0 c1 c2 c3 pagesize blocks : Word) (dv : BitVec 1) (dest : Word) :
    decode (asRequest (wordX c0 c1 c2 c3 pagesize blocks dv dest)) =
      .ok (readCtrXfer c0 c1 c2 c3 pagesize blocks dv dest) :=
  (decode_of_row (sel := 0x60#8) decodeOp_ctrXfer (by simp [wordX, field_high, field_whole])).trans
    ((readX_append 0x60 c0 c1 c2 c3 pagesize blocks 0 dv dest).trans (unlessReserved_zero 7 _))

/-- What the decoder reads from an instruction's bits is the well-formed spelling of the instruction. -/
theorem decode_encode (i : Instr) : decode (encode i) = .ok i.canonical := by
  cases i with
  | k1Enc w0 w1 => exact decode_readB (sel := 0x10) decodeOp_k1Enc w0 w1
  | k1Dec w0 w1 => exact decode_readB (sel := 0x11) decodeOp_k1Dec w0 w1
  | ksInit code stage gen => exact decode_readK 0 gen stage code
  | ksLight code gen => exact decode_readK 0 gen 0 code
  | ksFull code gen => exact decode_readK 0 gen 1 code
  | sesSeed => rfl
  | cmdActkey1 gen => exact decode_readBit (sel := 0x31) decodeOp_cmdActkey1 0 gen
  | aesSession dev => exact decode_readBit (sel := 0x50) decodeOp_aesSession 0 dev
  | ntrUnlock gen => exact decode_readBit (sel := 0x70) decodeOp_ntrUnlock 0 gen
  | ctrUnlock dev => exact decode_readBit (sel := 0x71) decodeOp_ctrUnlock 0 dev
  | cmdBuild op blk => exact decode_readC op blk
  | cmdSecread blk => exact decode_readC 0x20 blk
  | cmdActsec => exact decode_readC 0x40 0
  | cmdChipid => exact decode_readC 0x10 0
  | cmdDatamode => exact decode_readC 0xA0 0
  | saDecrypt code gen => exact decode_readS 0 gen code
  | ctrXfer c0 c1 c2 c3 pagesize blocks dv dest => exact decode_wordX c0 c1 c2 c3 pagesize blocks dv dest
  | ctrSend c0 c1 c2 c3 dest => exact decode_wordX c0 c1 c2 c3 0 1 0 dest
  | frameActivateKey1G0 p q c e => exact (decode_asFrame _).trans (decodeFrame_actKey1G0 p q c e)
  | frameActivateKey1G1 p q c e => exact (decode_asFrame _).trans (decodeFrame_actKey1G1 p q c e)
  | frameActivateSec b p q c | frameSecureChipid b p q c | frameSecureRead b p q c | frameDataMode b p q c =>
    exact (decode_asFrame _).trans (decodeFrame_wordFrame (by decide) (by decide) b p q c)
  | frameDataRead a => exact (decode_asFrame _).trans (decodeFrame_dataRead a)

/-- Settles O1. -/
theorem decodeReadsEncodedInstruction : Obligations.DecodeReadsEncodedInstruction := fun i h => by
  rw [decode_encode, canonical_of_wellFormed h]

/-! The decoder reads nothing else. -/

/-- The format `read` under OPSEL `sel` drops no bit, and what it reads is spelled well. -/
def Recovers {n : Nat} (sel : BitVec 8) (read : BitVec n → Except Reject Instr) : Prop :=
  ∀ v i, field v (n - 8) 8 = sel → read v = .ok i → encode i = asRequest v ∧ i.wellFormed = true

/-- The well-formed spelling has the bits. -/
theorem canonical_recovers {r : Request} {j : Instr} (bits : encode j = r) :
    encode j.canonical = r ∧ j.canonical.wellFormed = true :=
  ⟨(encode_canonical j).trans bits, wellFormed_canonical j⟩

theorem recovers_readB {sel : BitVec 8} {mk : Word → Word → Instr}
    (bits : ∀ w0 w1, encode (mk w0 w1) = asRequest (sel ++ w1 ++ w0) ∧ (mk w0 w1).wellFormed = true) :
    Recovers sel (readB · mk) := by
  rintro v i rfl h
  obtain rfl := Except.ok.inj h
  obtain ⟨written, spelled⟩ := bits (field v 0 32) (field v 32 32)
  refine ⟨written.trans (congrArg (asRequest (n := 72)) ?_), spelled⟩
  simp only [field_append_field]
  exact field_whole v

theorem recovers_readBit {sel : BitVec 8} {mk : BitVec 1 → Instr}
    (bits : ∀ x, encode (mk x) = asRequest (sel ++ 0#7 ++ x) ∧ (mk x).wellFormed = true) :
    Recovers sel (readBit · mk) := by
  rintro v i rfl h
  obtain ⟨mbz, rfl⟩ := unlessReserved_eq_ok h
  obtain ⟨written, spelled⟩ := bits (field v 0 1)
  refine ⟨written.trans (congrArg (asRequest (n := 16)) ?_), spelled⟩
  rw [← mbz]
  simp only [field_append_field]
  exact field_whole v

theorem recovers_readK : Recovers 0x20#8 readK := by
  intro v i opsel h
  obtain ⟨mbz, rfl⟩ := unlessReserved_eq_ok h
  refine canonical_recovers (j := .ksInit _ _ _) (congrArg (asRequest (n := 48)) ?_)
  rw [← opsel, ← mbz]
  simp only [field_append_field]
  exact field_whole v

theorem recovers_readS : Recovers 0x40#8 readS := by
  intro v i opsel h
  obtain ⟨mbz, rfl⟩ := unlessReserved_eq_ok h
  refine canonical_recovers (j := .saDecrypt _ _) (congrArg (asRequest (n := 48)) ?_)
  rw [← opsel, ← mbz]
  simp only [field_append_field]
  exact field_whole v

theorem recovers_readC : Recovers 0x32#8 readC := by
  intro v i opsel h
  obtain rfl := Except.ok.inj h
  refine canonical_recovers (j := .cmdBuild _ _) (congrArg (asRequest (n := 32)) ?_)
  rw [← opsel]
  simp only [field_append_field]
  exact field_whole v

theorem recovers_readX : Recovers 0x60#8 readX := by
  intro v i opsel h
  obtain ⟨mbz, rfl⟩ := unlessReserved_eq_ok h
  refine canonical_recovers (j := .ctrXfer _ _ _ _ _ _ _ _) (congrArg (asRequest (n := 240)) ?_)
  rw [wordX, ← opsel, ← mbz]
  simp only [field_append_field]
  exact field_whole v

theorem recovers_sesSeed : Recovers (n := 8) 0x30#8 fun _ => .ok .sesSeed := by
  intro v i opsel h
  obtain rfl := Except.ok.inj h
  exact canonical_recovers (j := .sesSeed) (congrArg asRequest (opsel.symm.trans (field_whole v)))

/-- A request whose OPSEL is a row's, at any width. -/
theorem recovers_of_row {n m : Nat} {sel : BitVec 8} {read : BitVec m → Except Reject Instr} {v : BitVec n} {i : Instr}
    (row : ∀ r, decodeOp sel.toNat r = ofWidth m r read) (format : Recovers sel read)
    (opsel : (field v (n - 8) 8).toNat = sel.toNat) (h : decodeOp sel.toNat (asRequest v) = .ok i) :
    encode i = asRequest v ∧ i.wellFormed = true := by
  rw [row] at h
  obtain rfl : n = m := by
    by_contra other
    rw [ofWidth, if_neg (show (asRequest v).nbits ≠ m from other)] at h
    cases h
  rw [ofWidth_asRequest] at h
  exact format v i (BitVec.eq_of_toNat_eq opsel) h

/-- The OPSEL values of the operation map (R92); every other one is reserved (R93). -/
def assignedOpsels : List Nat := [0x10, 0x11, 0x20, 0x30, 0x31, 0x32, 0x40, 0x50, 0x60, 0x70, 0x71]

theorem decodeOp_reserved {op : Nat} (h : op ∉ assignedOpsels) (r : Request) : decodeOp op r = .error .opsel := by
  simp only [assignedOpsels, List.mem_cons, List.not_mem_nil, or_false, not_or] at h
  simp only [decodeOp, h, if_false]

theorem decodeOp_recovers {n op : Nat} {v : BitVec n} {i : Instr} (opsel : (field v (n - 8) 8).toNat = op)
    (h : decodeOp op (asRequest v) = .ok i) : encode i = asRequest v ∧ i.wellFormed = true := by
  by_cases assigned : op ∈ assignedOpsels
  · simp only [assignedOpsels, List.mem_cons, List.not_mem_nil, or_false] at assigned
    obtain rfl | rfl | rfl | rfl | rfl | rfl | rfl | rfl | rfl | rfl | rfl := assigned
    · exact recovers_of_row (sel := 0x10) decodeOp_k1Enc (recovers_readB fun _ _ => ⟨rfl, rfl⟩) opsel h
    · exact recovers_of_row (sel := 0x11) decodeOp_k1Dec (recovers_readB fun _ _ => ⟨rfl, rfl⟩) opsel h
    · exact recovers_of_row (sel := 0x20) decodeOp_ksInit recovers_readK opsel h
    · exact recovers_of_row (sel := 0x30) decodeOp_sesSeed recovers_sesSeed opsel h
    · exact recovers_of_row (sel := 0x31) decodeOp_cmdActkey1 (recovers_readBit fun _ => ⟨rfl, rfl⟩) opsel h
    · exact recovers_of_row (sel := 0x32) decodeOp_cmdBuild recovers_readC opsel h
    · exact recovers_of_row (sel := 0x40) decodeOp_saDecrypt recovers_readS opsel h
    · exact recovers_of_row (sel := 0x50) decodeOp_aesSession (recovers_readBit fun _ => ⟨rfl, rfl⟩) opsel h
    · exact recovers_of_row (sel := 0x60) decodeOp_ctrXfer recovers_readX opsel h
    · exact recovers_of_row (sel := 0x70) decodeOp_ntrUnlock (recovers_readBit fun _ => ⟨rfl, rfl⟩) opsel h
    · exact recovers_of_row (sel := 0x71) decodeOp_ctrUnlock (recovers_readBit fun _ => ⟨rfl, rfl⟩) opsel h
  · rw [decodeOp_reserved assigned] at h
    cases h

/-- A frame read by its opcode nibble is the row's word. -/
theorem wordFrame_fields (v : Frame) :
    wordFrame (field v 60 4) (field v 44 16) (field v 32 12) (field v 20 12) (field v 0 20) = v := by
  simp only [wordFrame, field_append_field]
  exact field_whole v

theorem wordActKey1_fields {v : Frame} (mbz : field v 28 4 = 0#4) :
    wordActKey1 (field v 56 8) (field v 44 12) (field v 32 12) (field v 8 20) (field v 0 8) = v := by
  rw [wordActKey1, ← mbz]
  simp only [field_append_field]
  exact field_whole v

theorem dataRead_fields {v : Frame} (mbz : field v 0 24 = 0#24) : field v 56 8 ++ field v 24 32 ++ 0#24 = v := by
  rw [← mbz]
  simp only [field_append_field]
  exact field_whole v

theorem decodeFrame_recovers {v : Frame} {i : Instr} (h : decodeFrame v = .ok i) :
    encode i = asRequest v ∧ i.wellFormed = true := by
  have pframe := wordFrame_fields v
  simp only [decodeFrame] at h
  split_ifs at h with g0 g1 read sec chipid secread mode
  · obtain ⟨mbz, rfl⟩ := unlessReserved_eq_ok h
    exact ⟨congrArg asRequest (g0 ▸ wordActKey1_fields mbz), rfl⟩
  · obtain ⟨mbz, rfl⟩ := unlessReserved_eq_ok h
    exact ⟨congrArg asRequest (g1 ▸ wordActKey1_fields mbz), rfl⟩
  · obtain ⟨mbz, rfl⟩ := unlessReserved_eq_ok h
    exact ⟨congrArg asRequest (read ▸ dataRead_fields mbz), rfl⟩
  · obtain rfl := Except.ok.inj h
    exact ⟨congrArg asRequest (sec ▸ pframe), rfl⟩
  · obtain rfl := Except.ok.inj h
    exact ⟨congrArg asRequest (chipid ▸ pframe), rfl⟩
  · obtain rfl := Except.ok.inj h
    exact ⟨congrArg asRequest (secread ▸ pframe), rfl⟩
  · obtain rfl := Except.ok.inj h
    exact ⟨congrArg asRequest (mode ▸ pframe), rfl⟩

/-- Only a number that fits its width, of at least eight bits, is decoded. -/
theorem fits_of_decode {r : Request} {i : Instr} (h : decode r = .ok i) : r.bits < 2 ^ r.nbits ∧ 8 ≤ r.nbits := by
  unfold decode decodeRequest at h
  split_ifs at h with frame big wide
  · rw [frame]
    exact ⟨not_le.1 big, by decide⟩
  · rw [not_or] at wide
    exact ⟨not_le.1 wide.1, not_lt.1 wide.2⟩

/-- Settles O2. -/
theorem encodeRecoversDecodedBits : Obligations.EncodeRecoversDecodedBits := by
  intro r i h
  obtain ⟨fits, wide⟩ := fits_of_decode h
  obtain ⟨n, v, rfl⟩ := exists_asRequest fits
  by_cases frame : n = 64
  · subst frame
    exact decodeFrame_recovers ((decode_asFrame v).symm.trans h)
  · rw [decode_asRequest v wide frame] at h
    exact decodeOp_recovers rfl h

/-! What is reserved is rejected by name (R93). -/

theorem decodeRequest_eq_decodeOp {r : Request} (fits : r.bits < 2 ^ r.nbits) (wide : 8 ≤ r.nbits) :
    decodeRequest r = decodeOp (r.bits / 2 ^ (r.nbits - 8)) r := by
  rw [decodeRequest, if_neg (by omega), Nat.shiftRight_eq_div_pow]

/-- A nonzero must-be-zero field of a row's format. -/
theorem decodeOp_reservedBits {op n lo len : Nat} {mk : BitVec n → Instr} {r : Request}
    (row : ∀ r, decodeOp op r = ofWidth n r fun v => unlessReserved (field v lo len) (mk v))
    (fits : r.bits < 2 ^ r.nbits) (width : r.nbits = n) (nonzero : r.bits / 2 ^ lo % 2 ^ len ≠ 0) :
    decodeOp op r = .error .reservedBits := by
  rw [row, ofWidth, if_pos width]
  refine unlessReserved_nonzero (fun zero => nonzero ?_) _
  rw [← width] at zero
  have value := congrArg BitVec.toNat zero
  rwa [field_toNat, BitVec.toNat_ofNat, Nat.mod_eq_of_lt fits] at value

open Machine

/-- Settles O3. -/
theorem reservedEncodingsRefused : Obligations.ReservedEncodingsRefused := by
  intro s r rest hung inbox fits wide
  have refused {why : Reject} (rejected : decodeOp (r.bits / 2 ^ (r.nbits - 8)) r = .error why) :
      step s = .refused (.undecodable why) := by
    rw [step_request hung inbox, readRequest, decodeRequest_eq_decodeOp fits wide, rejected]
    rfl
  refine ⟨fun reserved => refused (decodeOp_reserved reserved r), fun row listed opsel width nonzero => refused ?_⟩
  rw [opsel]
  simp only [List.mem_cons, List.not_mem_nil, or_false] at listed
  obtain rfl | rfl | rfl | rfl | rfl | rfl | rfl := listed
  · exact decodeOp_reservedBits decodeOp_ksInit fits width nonzero
  · exact decodeOp_reservedBits decodeOp_cmdActkey1 fits width nonzero
  · exact decodeOp_reservedBits decodeOp_saDecrypt fits width nonzero
  · exact decodeOp_reservedBits decodeOp_aesSession fits width nonzero
  · exact decodeOp_reservedBits decodeOp_ctrXfer fits width nonzero
  · exact decodeOp_reservedBits decodeOp_ntrUnlock fits width nonzero
  · exact decodeOp_reservedBits decodeOp_ctrUnlock fits width nonzero

/-- The bits of a well-formed instruction are its row's word. -/
theorem decodeTableWord_of_encode {i : Instr} {nbits w : Nat} (spelled : i.wellFormed = true)
    (bits : encode i = ⟨nbits, w⟩) : decodeTableWord nbits w = some i := by
  rw [decodeTableWord, ← bits, decode_encode, canonical_of_wellFormed spelled]

/-- Settles O4: each word is what the encoder writes. -/
theorem sampleWordsDecode : Obligations.SampleWordsDecode := by
  refine ⟨?_, ?_, ?_, ?_, ?_, ?_, ?_, ?_, ?_⟩
  all_goals exact decodeTableWord_of_encode rfl rfl

end Sys2Proof
end

section
/-! PROOFS. Command frames (42_ntr_command.md, 30_encoding.md R94 to R97, R103): the layout of PFRAME, what the builds
answer, and the pseudo-operations and frame rows that stand for them. -/

namespace Sys2Proof.Machine

/-! The layout of PFRAME (R94). -/

theorem pack_eq (op : BitVec 8) (b : BitVec 16) (p q : BitVec 12) (c : BitVec 20) :
    pack op b p q c = (op ||| (field b 12 4).zeroExtend 8) ++ field b 0 12 ++ p ++ q ++ c := rfl

theorem pack_fields (op : BitVec 8) (b : BitVec 16) (p q : BitVec 12) (c : BitVec 20) :
    field (pack op b p q c) 56 8 = (op ||| (field b 12 4).zeroExtend 8) ∧
      field (pack op b p q c) 44 12 = field b 0 12 ∧ field (pack op b p q c) 32 12 = p ∧
      field (pack op b p q c) 20 12 = q ∧ field (pack op b p q c) 0 20 = c := by
  rw [pack_eq]
  refine ⟨?_, ?_, ?_, ?_, ?_⟩
  all_goals simp [field_high, field_low, field_whole]

/-- Settles O26. -/
theorem frameFieldsStandAtTheirBits : Obligations.FrameFieldsStandAtTheirBits := pack_fields

/-- An opcode whose low nibble is zero leaves b[15:12] as it is: its high nibble and b stand side by side (R97). -/
theorem pack_eq_wordFrame (op : BitVec 4) (b : BitVec 16) (p q : BitVec 12) (c : BitVec 20) :
    pack (op ++ 0#4) b p q c = wordFrame op b p q c := by
  have byte : (op ++ 0#4) ||| (field b 12 4).zeroExtend 8 = op ++ field b 12 4 := by
    have wide : (field b 12 4).zeroExtend 8 = 0#4 ++ field b 12 4 := BitVec.setWidth_eq_append (by decide)
    rw [wide, BitVec.or_append, BitVec.or_zero, BitVec.zero_or]
  have block : op ++ field b 12 4 ++ field b 0 12 = op ++ b := by
    have halves : field b 12 4 ++ field b 0 12 = b := (field_append_field b rfl).trans (field_whole b)
    rw [BitVec.append_assoc, halves]
    rfl
  calc pack (op ++ 0#4) b p q c
    _ = op ++ field b 12 4 ++ field b 0 12 ++ p ++ q ++ c := by rw [pack_eq, byte]
    _ = wordFrame op b p q c := by rw [block, wordFrame]

/-- Settles O27: either way the opcode byte is 0x2F, and b[11:0] is the same. -/
theorem opcodeNibbleCollidesWithBlock : Obligations.OpcodeNibbleCollidesWithBlock := by
  intro b p q c top
  have high : field (b ||| 0xF000) 12 4 = 0xF := by
    rw [field, BitVec.extractLsb'_or, top]
    rfl
  have low : field (b ||| 0xF000) 0 12 = field b 0 12 := by
    rw [field, BitVec.extractLsb'_or]
    exact BitVec.or_zero
  rw [pack_eq, pack_eq, high, low, show field b 12 4 = 0 from top]
  rfl

/-! What the builds answer. -/

theorem perform_cmdBuildOp (op : BitVec 8) (blk : BitVec 16) {s : State} (h : s.canBuild) :
    perform (cmdBuildOp op blk) s = .next (s.afterBuild op blk) := by
  unfold cmdBuildOp
  exact perform_ok (Op.bind_ok (cmdBuild_apply op blk h))

theorem perform_cmdBuildOp_no_session (op : BitVec 8) (blk : BitVec 16) {s : State} (h : s.command.svalid = false) :
    perform (cmdBuildOp op blk) s = .next (s.uninitialised .session) := by
  unfold cmdBuildOp cmdBuild
  exact perform_error (Op.bind_error (Op.bind_error (needSession_invalid h)))

theorem perform_cmdBuildOp_no_table (op : BitVec 8) (blk : BitVec 16) {s : State} (session : s.command.svalid = true)
    (h : s.cipher.tvalid = false) : perform (cmdBuildOp op blk) s = .next (s.uninitialised .table) := by
  unfold cmdBuildOp cmdBuild
  refine perform_error (e := .event (.uninit .table)) (Op.bind_error ?_)
  rw [Op.bind_ok (needSession_valid session), Op.bind_error (needTable_invalid h)]

theorem perform_actKey1Op (gen : BitVec 1) {s : State} (h : s.command.svalid = true) :
    perform (actKey1Op gen) s = .next (s.afterActKey1 gen) := by
  unfold actKey1Op
  exact perform_ok (Op.bind_ok (actKey1_apply gen h))

theorem perform_actKey1Op_no_session (gen : BitVec 1) {s : State} (h : s.command.svalid = false) :
    perform (actKey1Op gen) s = .next (s.uninitialised .session) := by
  unfold actKey1Op actKey1
  exact perform_error (Op.bind_error (Op.bind_error (needSession_invalid h)))

/-! The pseudo-operations (R103). -/

/-- Settles O6. -/
theorem pseudoOperationsExpand : Obligations.PseudoOperationsExpand := by
  intro s code c0 c1 c2 c3 dest gen blk
  exact ⟨⟨rfl, rfl⟩, ⟨rfl, rfl⟩, ⟨rfl, rfl⟩, ⟨rfl, rfl⟩, ⟨rfl, rfl⟩, ⟨rfl, rfl⟩, ⟨rfl, rfl⟩⟩

/-- Settles O28. -/
theorem commandPseudoOperationsBuild : Obligations.CommandPseudoOperationsBuild := fun blk _ h =>
  ⟨perform_cmdBuildOp _ 0 h, perform_cmdBuildOp _ 0 h, perform_cmdBuildOp _ blk h, perform_cmdBuildOp _ 0 h⟩

/-! The frame rows (R97, log 14). -/

theorem buildMatching_built {readable : State → Bool} {built : State → Frame} {want : Frame} {s : State}
    (h : built s = want) (op : Op Response) : buildMatching readable built want op s = perform op s := by
  rw [buildMatching, if_neg (by simp [h])]

theorem buildMatching_unreadable {readable : State → Bool} {s : State} (h : readable s = false) (built : State → Frame)
    (want : Frame) (op : Op Response) : buildMatching readable built want op s = perform op s := by
  rw [buildMatching, if_neg (by simp [h])]

theorem buildMatching_foreign {readable : State → Bool} {built : State → Frame} {want : Frame} {s : State}
    (h : readable s = true) (foreign : built s ≠ want) (op : Op Response) :
    buildMatching readable built want op s = .refused .frameNotBuilt := by
  rw [buildMatching, if_pos (by simp [h, foreign])]

theorem commandMatching_built {op : BitVec 8} {blk : BitVec 16} {want : Frame} {s : State} (build : s.canBuild)
    (h : specFrame s op blk = want) : commandMatching op blk want s = .next (s.afterBuild op blk) :=
  (buildMatching_built ((nextCommandFrame_eq_specFrame op blk s).trans h) _).trans (perform_cmdBuildOp op blk build)

theorem commandMatching_foreign {op : BitVec 8} {blk : BitVec 16} {want : Frame} {s : State} (build : s.canBuild)
    (h : specFrame s op blk ≠ want) : commandMatching op blk want s = .refused .frameNotBuilt :=
  buildMatching_foreign (by rw [build.1, build.2]; rfl) (by rwa [nextCommandFrame_eq_specFrame]) _

theorem commandMatching_no_session {op : BitVec 8} {blk : BitVec 16} {want : Frame} {s : State}
    (h : s.command.svalid = false) : commandMatching op blk want s = .next (s.uninitialised .session) :=
  (buildMatching_unreadable (by simp [h]) _ _ _).trans (perform_cmdBuildOp_no_session op blk h)

theorem commandMatching_no_table {op : BitVec 8} {blk : BitVec 16} {want : Frame} {s : State}
    (session : s.command.svalid = true) (h : s.cipher.tvalid = false) :
    commandMatching op blk want s = .next (s.uninitialised .table) :=
  (buildMatching_unreadable (by simp [h]) _ _ _).trans (perform_cmdBuildOp_no_table op blk session h)

theorem actKey1Matching_built {gen : BitVec 1} {want : Frame} {s : State} (session : s.command.svalid = true)
    (h : specActKey1 s gen = want) : actKey1Matching gen want s = .next (s.afterActKey1 gen) :=
  (buildMatching_built h _).trans (perform_actKey1Op gen session)

theorem actKey1Matching_foreign {gen : BitVec 1} {want : Frame} {s : State} (session : s.command.svalid = true)
    (h : specActKey1 s gen ≠ want) : actKey1Matching gen want s = .refused .frameNotBuilt :=
  buildMatching_foreign session h _

theorem actKey1Matching_no_session {gen : BitVec 1} {want : Frame} {s : State} (h : s.command.svalid = false) :
    actKey1Matching gen want s = .next (s.uninitialised .session) :=
  (buildMatching_unreadable h _ _ _).trans (perform_actKey1Op_no_session gen h)

/-- The frame of a build whose session gives the fields. -/
theorem specFrame_of_carries {s : State} {op : BitVec 8} {blk b : BitVec 16} {p q : BitVec 12} {c : BitVec 20}
    (h : carries s op blk b p q c) : specFrame s op blk = pack op b p q c := by
  obtain ⟨rfl, rfl, rfl, rfl⟩ := h
  rfl

/-- A frame row under the opcode of its nibble, in a session that gives its fields. -/
theorem commandMatching_carries (nibble : BitVec 4) {op : BitVec 8} {blk b : BitVec 16} {p q : BitVec 12}
    {c : BitVec 20} {s : State} (build : s.canBuild) (opcode : op = nibble ++ 0#4)
    (h : carries s (nibble ++ 0#4) blk b p q c) :
    commandMatching op blk (wordFrame nibble b p q c) s = .next (s.afterBuild (nibble ++ 0#4) blk) := by
  rw [opcode]
  exact commandMatching_built build ((specFrame_of_carries h).trans (pack_eq_wordFrame nibble b p q c))

/-- Settles O31. -/
theorem encryptedFrameRowsBuild : Obligations.EncryptedFrameRowsBuild := fun _ _ _ _ _ build =>
  ⟨commandMatching_carries 0x4 build, commandMatching_carries 0x1 build, commandMatching_carries 0x2 build,
    commandMatching_carries 0xA build⟩

/-- Settles O32. -/
theorem activateKey1FrameRowsBuild : Obligations.ActivateKey1FrameRowsBuild := by
  rintro p q c e s session rfl rfl rfl rfl
  exact ⟨fun opcode => actKey1Matching_built session (by rw [← opcode]; rfl),
    fun opcode => actKey1Matching_built session (by rw [← opcode]; rfl)⟩

/-- Settles O33. -/
theorem foreignFrameRowsRefused : Obligations.ForeignFrameRowsRefused := by
  intro a b p q c e s
  refine ⟨fun build => ⟨commandMatching_foreign build, commandMatching_foreign build, commandMatching_foreign build,
    commandMatching_foreign build⟩, fun session => ⟨actKey1Matching_foreign session, actKey1Matching_foreign session⟩,
    fun foreign => if_neg foreign, fun i row => ?_, fun i row session => ?_⟩
  · simp only [List.mem_cons, List.not_mem_nil, or_false] at row
    obtain rfl | rfl | rfl | rfl := row <;> exact ⟨commandMatching_no_session, commandMatching_no_table⟩
  · simp only [List.mem_cons, List.not_mem_nil, or_false] at row
    obtain rfl | rfl := row <;> exact actKey1Matching_no_session session

end Sys2Proof.Machine
end

section
/-! PROOFS. CTR.SEND (45_ctr_transport.md R210 corner case a, 30_encoding.md R103): a transfer of length zero. -/

namespace Sys2Proof.Machine

/-- A transfer of length zero takes one sample, then those of the final wait. -/
theorem transferBody_empty (sink : Sink) {s : State} (empty : s.transport.xlen.val.toNat ≤ s.transport.xcnt.val.toNat)
    (unbounded : s.cfg.pollBound = none) (idle : s.env.statusRest.busy = false) :
    ∃ left, transferBody sink s = .ok none (s.setEnv (s.env.withStatus left)) ∧ left <:+ s.env.status := by
  obtain ⟨ys, after, taken⟩ := s.env.sampled
  have suffix : ys <:+ s.env.status := by
    obtain ⟨none, rfl, -⟩ | some := taken
    · exact List.nil_suffix
    · rw [some]
      exact List.suffix_cons _ _
  have noMore : pollMore s.env.nextSample (s.setEnv (s.env.withStatus ys)) = false := by
    rw [Bool.eq_false_iff, ne_eq, pollMore_iff]
    exact fun more => absurd more.2 (not_lt.2 empty)
  have notShort : short (s.setEnv (s.env.withStatus ys)) = false := decide_eq_false (not_lt.2 empty)
  have loop : runPollLoop sink s = .ok none (s.setEnv (s.env.withStatus ys)) := by
    unfold runPollLoop
    rw [Op.bind_ok (sampleStatus_unbounded unbounded .pollLoop 0), Op.bind_ok (peek_apply _ _), after, pollFuel,
      pollLoop_done sink _ 1 none noMore]
  refine ⟨_, ?_, (pollUntil_suffix none (fun x => !x.busy) s.env.statusRest 0 ys).trans suffix⟩
  have noEpilogue : epilogueIfShort (s.setEnv (s.env.withStatus ys)) = .ok () (s.setEnv (s.env.withStatus ys)) := by
    rw [epilogueIfShort, notShort]
    rfl
  unfold transferBody finalWait
  rw [Op.bind_ok loop, Op.bind_ok noEpilogue,
    Op.bind_ok (awaitStatus_met .finalWait (s := s.setEnv (s.env.withStatus ys)) (goal := fun x => !x.busy) unbounded
      (by simpa [Env.withStatus] using idle))]
  rfl

/-- Settles O46. -/
theorem ctrSendMovesNoData : Obligations.CtrSendMovesNoData := by
  intro c0 c1 c2 c3 dest s unbounded uncut idle
  obtain ⟨left, ended, suffix⟩ := transferBody_empty .discard (s := started ⟨c0, c1, c2, c3⟩ 0 1 s) (Nat.zero_le _)
    unbounded idle
  have answered := (transfer_starts ⟨c0, c1, c2, c3⟩ 0 1 .discard uncut).trans ended
  refine ⟨left, ?_, suffix⟩
  exact perform_ok (Op.bind_ok answered)

end Sys2Proof.Machine
end

section
/-! PROOFS. The cipher (40_key1_cipher.md): F and the rounds in numbers, what the two passes answer, and why each undoes
the other; with it that a sealed frame opens (42_ntr_command.md R166). -/

namespace Sys2Proof.Machine

/-! The table by slot number, and F (R120). -/

theorem slot_getElem (t : Table) (i : Fin 0x412) : slot t i.val = t[i] := by
  simp [slot]

theorem subSlot_eq_slot (t : Table) (base : Nat) (h : base ≤ 0x312) (b : Byte) :
    subSlot t base h b = slot t (base + b.toNat) :=
  (slot_getElem t ⟨base + b.toNat, by have := b.isLt; omega⟩).symm

theorem byteOf_toNat (w : Word) (j : Nat) : (byteOf w j).toNat = w.toNat / 2 ^ (8 * j) % 256 :=
  field_toNat w (8 * j) 8

/-- Settles O12: the two spellings read the same slots, the top byte needing no reduction modulo 256. -/
theorem subTableIsF : Obligations.SubTableIsF := by
  intro t z
  have top : z.toNat / 2 ^ 24 % 256 = z.toNat / 2 ^ 24 := Nat.mod_eq_of_lt (by have := z.isLt; omega)
  simp only [subTable, specF, add32, subSlot_eq_slot, byteOf_toNat, BitVec.ofNat_eq_ofNat, BitVec.zero_xor,
    Nat.reduceMul, top, pow_zero, Nat.div_one]

/-! The rounds (R121). -/

theorem rounds_append (t : Table) (is js : List (Fin 0x412)) (b : Block) :
    rounds t (is ++ js) b = rounds t js (rounds t is b) := by
  induction is generalizing b with
  | nil => rfl
  | cons i is ih => exact ih (feistelRound t i b)

theorem feistelRound_eq (t : Table) (i : Fin 0x412) (b : Block) :
    feistelRound t i b = ⟨slot t i.val ^^^ b.right, specF t (slot t i.val ^^^ b.right) ^^^ b.left⟩ := by
  rw [feistelRound, slot_getElem, subTableIsF]

theorem whiten_eq (t : Table) (s0 s1 : Fin 0x412) (b : Block) :
    whiten t s0 s1 b = ⟨b.right ^^^ slot t s0.val, b.left ^^^ slot t s1.val⟩ := by
  rw [whiten, slot_getElem, slot_getElem]

/-- The words before each of sixteen rounds are those of the rounds before it. -/
theorem passWords_rounds (t : Table) {slots : List (Fin 0x412)} {slotOf : Nat → Nat}
    (numbered : slots.map (·.val) = (List.range 16).map slotOf) (w0 w1 : Word) :
    PassWords t slotOf w0 w1 (fun i => (rounds t (slots.take i) ⟨w0, w1⟩).left)
      (fun i => (rounds t (slots.take i) ⟨w0, w1⟩).right) := by
  refine ⟨rfl, rfl, fun i hi => ?_⟩
  have long : i < slots.length := by
    have : slots.length = 16 := by simpa using congrArg List.length numbered
    omega
  have number : slots[i].val = slotOf i := by
    have := congrArg (·[i]?) numbered
    simpa [long, hi] using this
  have round : rounds t (slots.take (i + 1)) ⟨w0, w1⟩ =
      feistelRound t slots[i] (rounds t (slots.take i) ⟨w0, w1⟩) := by
    rw [List.take_succ_eq_append_getElem long, rounds_append]
    rfl
  beta_reduce
  rw [round, feistelRound_eq, number]
  exact ⟨rfl, rfl⟩

/-! What K1.ENC and K1.DEC answer (R122, R123). -/

theorem perform_passOp (f : Table → Block → Block) (w0 w1 : Word) {s : State} (table : s.cipher.tvalid = true) :
    perform (passOp f w0 w1) s = .next (s.withBlock (f s.cipher.sched.t ⟨w0, w1⟩)) := by
  refine perform_ok ?_
  unfold passOp
  rw [Op.bind_ok (needTable_valid table), Op.bind_ok (peek_apply _ _)]
  rfl

theorem perform_passOp_no_table (f : Table → Block → Block) (w0 w1 : Word) {s : State}
    (table : s.cipher.tvalid = false) : perform (passOp f w0 w1) s = .next (s.uninitialised .table) :=
  perform_error (Op.bind_error (needTable_invalid table))

/-- Settles O13. -/
theorem encRunsTheForwardPass : Obligations.EncRunsTheForwardPass := by
  refine fun w0 w1 s => ⟨fun table => ?_, perform_passOp_no_table enc w0 w1⟩
  refine ⟨_, _, passWords_rounds s.cipher.sched.t (slots := forwardSlots) (by decide) w0 w1, ?_⟩
  refine (perform_passOp enc w0 w1 table).trans ?_
  rw [enc, whiten_eq]
  rfl

/-- Settles O14. -/
theorem decRunsTheReversePass : Obligations.DecRunsTheReversePass := by
  refine fun w0 w1 s => ⟨fun table => ?_, perform_passOp_no_table dec w0 w1⟩
  refine ⟨_, _, passWords_rounds s.cipher.sched.t (slots := reverseSlots) (by decide) w0 w1, ?_⟩
  refine (perform_passOp dec w0 w1 table).trans ?_
  rw [dec, whiten_eq]
  rfl

/-! The inverse law (R124). -/

/-- A whitened block whitened again with the two slots exchanged. -/
theorem whiten_whiten (t : Table) (s0 s1 : Fin 0x412) (b : Block) : whiten t s1 s0 (whiten t s0 s1 b) = b := by
  simp only [whiten, BitVec.xor_assoc, BitVec.xor_self, BitVec.xor_zero]

/-- A round with the second final-XOR slot takes back the last round: what it leaves is the block before that round,
whitened with that round's slot and the first final-XOR slot. -/
theorem feistelRound_whiten_feistelRound (t : Table) (i s0 s1 : Fin 0x412) (b : Block) :
    feistelRound t s1 (whiten t s0 s1 (feistelRound t i b)) = whiten t i s0 b := by
  have z : t[s1] ^^^ (t[i] ^^^ b.right ^^^ t[s1]) = t[i] ^^^ b.right := by
    rw [BitVec.xor_comm, BitVec.xor_assoc, BitVec.xor_self, BitVec.xor_zero]
  simp only [feistelRound, whiten]
  rw [z, BitVec.xor_assoc _ b.left, ← BitVec.xor_assoc (subTable t _), BitVec.xor_self, BitVec.zero_xor,
    BitVec.xor_comm b.right]

/-- The rounds of a pass and its final XOR are taken back one by one, from the last, by rounds over its slots in the
opposite order: the slots of a pass are those of its rounds and then the two of its final XOR. -/
theorem rounds_reverse_whiten_rounds (t : Table) {a b : Fin 0x412} {is : List (Fin 0x412)} {h0 h1 : Fin 0x412}
    {js : List (Fin 0x412)} (slots : is ++ [a, b] = h0 :: h1 :: js) (x : Block) :
    rounds t js.reverse (whiten t a b (rounds t is x)) = whiten t h0 h1 x := by
  induction is generalizing h0 h1 js x with
  | nil =>
    obtain ⟨rfl, rfl, rfl⟩ : a = h0 ∧ b = h1 ∧ [] = js := by simpa using slots
    rfl
  | cons i is ih =>
    obtain ⟨rfl, rest⟩ : i = h0 ∧ is ++ [a, b] = h1 :: js := by simpa using slots
    obtain _ | ⟨h2, js⟩ := js
    · exact absurd rest (by simp [List.append_eq_singleton_iff])
    calc rounds t (h2 :: js).reverse (whiten t a b (rounds t is (feistelRound t i x)))
      _ = feistelRound t h2 (rounds t js.reverse (whiten t a b (rounds t is (feistelRound t i x)))) := by
        rw [List.reverse_cons, rounds_append]
        rfl
      _ = feistelRound t h2 (whiten t h1 h2 (feistelRound t i x)) := by rw [ih rest]
      _ = whiten t i h1 x := feistelRound_whiten_feistelRound t i h1 h2 x

theorem dec_enc (t : Table) (b : Block) : dec t (enc t b) = b := by
  have slots : forwardSlots ++ [0x10, 0x11] = 0 :: 1 :: reverseSlots.reverse := rfl
  rw [dec, enc, ← reverseSlots.reverse_reverse, rounds_reverse_whiten_rounds t slots, whiten_whiten]

theorem enc_dec (t : Table) (b : Block) : enc t (dec t b) = b := by
  have slots : reverseSlots ++ [1, 0] = 0x11 :: 0x10 :: forwardSlots.reverse := rfl
  rw [enc, dec, ← forwardSlots.reverse_reverse, rounds_reverse_whiten_rounds t slots, whiten_whiten]

/-- Settles O15. -/
theorem passesAreMutuallyInverse : Obligations.PassesAreMutuallyInverse := fun t b => ⟨dec_enc t b, enc_dec t b⟩

/-! A zero table (R122 corner case d, R123). -/

/-- The two words of a block exchanged. -/
def exchanged (b : Block) : Block := ⟨b.right, b.left⟩

theorem exchanged_involutive : Function.Involutive exchanged := fun _ => rfl

section ZeroTable

variable {t : Table} (zero : ∀ i, i < 0x412 → slot t i = 0)

include zero

/-- F of a zero table is zero. -/
theorem specF_zero (z : Word) : specF t z = 0 := by
  have hz : z.toNat < 2 ^ 32 := z.isLt
  rw [specF, zero _ (by omega), zero _ (by omega), zero _ (by omega), zero _ (by omega)]
  rfl

theorem feistelRound_zero (i : Fin 0x412) (b : Block) : feistelRound t i b = exchanged b := by
  simp only [feistelRound_eq, specF_zero zero, zero _ i.isLt, BitVec.ofNat_eq_ofNat, BitVec.zero_xor,
    exchanged]

theorem whiten_zero (s0 s1 : Fin 0x412) (b : Block) : whiten t s0 s1 b = exchanged b := by
  simp only [whiten_eq, zero _ s0.isLt, zero _ s1.isLt, BitVec.ofNat_eq_ofNat, BitVec.xor_zero, exchanged]

theorem rounds_zero (is : List (Fin 0x412)) (b : Block) : rounds t is b = exchanged^[is.length] b := by
  induction is generalizing b with
  | nil => rfl
  | cons i is ih => rw [rounds, ih, feistelRound_zero zero, List.length_cons, Function.iterate_succ_apply]

/-- An even number of rounds leaves the block as it is. -/
theorem rounds_zero_of_even {is : List (Fin 0x412)} (even : Even is.length) (b : Block) : rounds t is b = b := by
  rw [rounds_zero zero, exchanged_involutive.iterate_even even, id]

end ZeroTable

/-- Settles O16: the sixteen rounds exchange the words sixteen times, the final XOR once more. -/
theorem zeroTableSwapsTheWords : Obligations.ZeroTableSwapsTheWords := by
  intro t w0 w1 zero
  constructor
  · rw [enc, whiten_zero zero, rounds_zero_of_even zero (by decide), exchanged]
  · rw [dec, whiten_zero zero, rounds_zero_of_even zero (by decide), exchanged]

/-! A sealed frame opens (R166). -/

theorem frameLow_append (hi lo : Word) : frameLow (hi ++ lo) = lo :=
  (field_low hi lo (Nat.le_refl 32)).trans (field_whole lo)

theorem frameHigh_append (hi lo : Word) : frameHigh (hi ++ lo) = hi :=
  (field_high hi lo (Nat.le_refl 32)).trans (field_whole hi)

/-- The words of EFRAME are one forward pass over those of PFRAME. -/
theorem frameWords_specSeal (t : Table) (f : Frame) :
    (⟨frameLow (specSeal t f), frameHigh (specSeal t f)⟩ : Block) = enc t ⟨frameLow f, frameHigh f⟩ := by
  rw [specSeal, frameLow_append, frameHigh_append]
  rfl

/-- Settles O29. -/
theorem builtFrameOpensToItsPlaintext : Obligations.BuiltFrameOpensToItsPlaintext := by
  intro op blk s t build run
  obtain rfl : s.afterBuild op blk = t := Host.Outcome.next.inj ((perform_cmdBuildOp op blk build).symm.trans run)
  refine ⟨rfl, rfl, ?_⟩
  exact (congrArg (dec s.cipher.sched.t) (frameWords_specSeal _ _)).trans (dec_enc _ _)

end Sys2Proof.Machine
end

section
/-! PROOFS. SA.DECRYPT on written blocks (43_secure_area.md R180 to R182): what the two stages leave in SA, and that they
recover an area encrypted for them. -/

namespace Sys2Proof.Machine

/-! Blocks of SA. -/

theorem holdsBlock_blockSet_same (a : Area) {k : Nat} (b : Block) (hk : k < 0x800) : HoldsBlock (blockSet a k b) k b := by
  constructor
  · rw [areaWord_blockSet a b hk (by omega), if_pos rfl]
  · rw [areaWord_blockSet a b hk (by omega), if_neg (by omega), if_pos rfl]

/-- A block whose two words are kept is kept. -/
theorem HoldsBlock.congr {a a' : Area} {k : Nat} {b : Block} (kept : ∀ i, i / 2 = k → areaWord a' i = areaWord a i)
    (h : HoldsBlock a k b) : HoldsBlock a' k b :=
  ⟨(kept _ (by omega)).trans h.1, (kept _ (by omega)).trans h.2⟩

theorem areaWord_blockSet_other (a : Area) {k i : Nat} (b : Block) (hk : k < 0x800) (hi : i < 0x1000)
    (other : i / 2 ≠ k) : areaWord (blockSet a k b) i = areaWord a i := by
  rw [areaWord_blockSet a b hk hi, if_neg (by omega), if_neg (by omega)]

theorem HoldsBlock.blockSet_other {a : Area} {k j : Nat} {b : Block} (h : HoldsBlock a j b) (c : Block)
    (hk : k < 0x800) (hj : j < 0x800) (other : j ≠ k) : HoldsBlock (blockSet a k c) j b :=
  h.congr fun _ _ => areaWord_blockSet_other a c hk (by omega) (by omega)

/-- SA with the `n` blocks from block `k` up written, block `j` with `b j`. -/
def blocksSet (b : Nat → Block) : Nat → Nat → Area → Area
  | 0, _, a => a
  | n + 1, k, a => blocksSet b n (k + 1) (blockSet a k (b k))

theorem areaWord_blocksSet_outside (b : Nat → Block) {n k i : Nat} (a : Area) (inside : k + n ≤ 0x800) (hi : i < 0x1000)
    (outside : ¬ (k ≤ i / 2 ∧ i / 2 < k + n)) : areaWord (blocksSet b n k a) i = areaWord a i := by
  induction n generalizing k a with
  | zero => rfl
  | succ n ih =>
    rw [blocksSet, ih _ (by omega) (by omega), areaWord_blockSet_other a _ (by omega) hi (by omega)]

theorem HoldsBlock.blocksSet_outside {a : Area} {n k j : Nat} {c : Block} (h : HoldsBlock a j c) (b : Nat → Block)
    (inside : k + n ≤ 0x800) (hj : j < 0x800) (outside : ¬ (k ≤ j ∧ j < k + n)) :
    HoldsBlock (blocksSet b n k a) j c :=
  h.congr fun _ _ => areaWord_blocksSet_outside b a inside (by omega) (by omega)

theorem holdsBlock_blocksSet (b : Nat → Block) {n k j : Nat} (a : Area) (inside : k + n ≤ 0x800) (above : k ≤ j)
    (below : j < k + n) : HoldsBlock (blocksSet b n k a) j (b j) := by
  induction n generalizing k a with
  | zero => omega
  | succ n ih =>
    obtain rfl | later := Nat.eq_or_lt_of_le above
    · exact (holdsBlock_blockSet_same a (b k) (by omega)).blocksSet_outside b (by omega) (by omega) (by omega)
    · exact ih _ (by omega) later (by omega)

/-! The two stages. -/

theorem scheduled_sched (base : Table) (code : Word) (stage : BitVec 1) (s : State) :
    (scheduled base code stage s).cipher.sched = specSchedule s.cfg base code stage :=
  ksSchedule_eq_specSchedule s.cfg base code stage

theorem scheduled_cfg (base : Table) (code : Word) (stage : BitVec 1) (s : State) :
    (scheduled base code stage s).cfg = s.cfg := rfl

/-- The full stage's schedule takes the place of the light stage's and leaves SA alone. -/
theorem scheduled_setArea_scheduled (base : Table) (code : Word) (stage stage' : BitVec 1) (a : Area) (s : State) :
    scheduled base code stage' ((scheduled base code stage s).setArea a) =
      (scheduled base code stage' s).setArea a := rfl

/-- Decrypting blocks that hold their words (R180, R182): no block is read after it is written. -/
theorem decBlocksFrom_holding {n k : Nat} {s : State} {c : Nat → Block} (inside : k + n ≤ 0x800)
    (held : ∀ j, k ≤ j → j < k + n → HoldsBlock s.area j (c j)) :
    decBlocksFrom n k s = .ok () (s.setArea (blocksSet (fun j => dec s.cipher.sched.t (c j)) n k s.area)) := by
  induction n generalizing k s with
  | zero => rfl
  | succ n ih =>
    rw [decBlocksFrom, Op.bind_ok (decBlock_holding (by omega) (held k (by omega) (by omega)))]
    exact ih (by omega) fun j above below =>
      (held j (by omega) (by omega)).blockSet_other _ (by omega) (by omega) (by omega)

/-- SA after the light stage: one block decrypted under the LIGHT table (R181). -/
def lightArea (base : Table) (code : Word) (c : Block) (s : State) : Area :=
  blockSet s.area s.cfg.saLightBlock (dec (specSchedule s.cfg base code 0).t c)

/-- Both stages, where the light block holds `c` and the blocks of the full range hold `d` after the light stage. -/
theorem saDecrypt_holding {base : Table} {code : Word} {s : State} {c : Block} {d : Nat → Block}
    (light : s.cfg.saLightBlock < 0x800) (full : s.cfg.saFullStart + s.cfg.saFullCount ≤ 0x800)
    (lightHeld : HoldsBlock s.area s.cfg.saLightBlock c)
    (fullHeld : ∀ k, s.cfg.saFullStart ≤ k → k < s.cfg.saFullStart + s.cfg.saFullCount →
      HoldsBlock (lightArea base code c s) k (d k)) :
    saDecrypt base code s = .ok () ((scheduled base code 1 s).setArea
      (blocksSet (fun k => dec (specSchedule s.cfg base code 1).t (d k)) s.cfg.saFullCount s.cfg.saFullStart
        (lightArea base code c s))) := by
  have lightStage : decBlock s.cfg.saLightBlock (scheduled base code 0 s) =
      .ok () ((scheduled base code 0 s).setArea (lightArea base code c s)) := by
    rw [decBlock_holding light (s := scheduled base code 0 s) lightHeld, scheduled_sched]
    rfl
  have fullStage := decBlocksFrom_holding
    (s := (scheduled base code 1 s).setArea (lightArea base code c s)) full fullHeld
  simp only [State.setArea_cipher, State.setArea_area, State.setArea_setArea, scheduled_sched] at fullStage
  unfold saDecrypt ksInit
  rw [Op.bind_ok (change_apply _ _), Op.bind_ok (peek_apply _ _), scheduled_cfg, Op.bind_ok lightStage,
    Op.bind_ok (change_apply _ _), Op.bind_ok (peek_apply _ _), Op.bind_ok (peek_apply _ _),
    scheduled_setArea_scheduled]
  exact fullStage

/-- SA.DECRYPT with its ranges in the buffer and its base table there answers what the two stages answer (R180). -/
theorem execSaDecrypt_ok {gen : BitVec 1} {base : Table} {code : Word} {s t : State}
    (supplied : (if gen = 0 then s.cfg.base0 else s.cfg.base1) = some base) (light : s.cfg.saLightBlock < 0x800)
    (full : s.cfg.saFullStart + s.cfg.saFullCount ≤ 0x800) (run : saDecrypt base code s = .ok () t) :
    exec (.saDecrypt code gen) s = .next (t.setResponse (some .done)) := by
  have legal : areaRangeLegal s.cfg = true := by simp [areaRangeLegal, light, full]
  have table : baseTable s.cfg gen = some base := supplied
  show execSaDecrypt code gen s = _
  rw [execSaDecrypt, if_pos legal, withBase, table]
  exact perform_ok (Op.bind_ok run)

/-- Settles O36. -/
theorem saDecryptRecoversTheArea : Obligations.SaDecryptRecoversTheArea := by
  intro code gen base plain s supplied apart full light lightHeld fullHeld
  have run := saDecrypt_holding (base := base) (code := code) light full lightHeld fun k above below =>
    (fullHeld k above below).blockSet_other _ light (by omega) (by omega)
  have lightRecovered := holdsBlock_blockSet_same s.area (plain s.cfg.saLightBlock) light
  simp only [lightArea, dec_enc] at run
  exact ⟨_, execSaDecrypt_ok supplied light full run, lightRecovered.blocksSet_outside plain full light (by omega),
    fun k above below => holdsBlock_blocksSet plain _ full above below⟩

end Sys2Proof.Machine
end

section
/-! PROOFS. The key schedule (41_key_schedule.md): its micro-steps slot by slot, the rebuild as a sequence of tables and
scratch blocks, KS.INIT; and the refusals of what needs a base table (R140). -/

namespace Sys2Proof.Machine

/-! The key code (R142, R143). -/

theorem shr1_toNat (w : Word) : (shr1 w).toNat = w.toNat / 2 := by
  rw [shr1, BitVec.toNat_ushiftRight, Nat.shiftRight_eq_div_pow, pow_one]

theorem shl1_toNat (w : Word) : (shl1 w).toNat = w.toNat * 2 % 2 ^ 32 := by
  rw [shl1, BitVec.toNat_shiftLeft, Nat.shiftLeft_eq, pow_one]

/-- Settles O17. -/
theorem keyCodeHalvesAndDoubles : Obligations.KeyCodeHalvesAndDoubles := fun code =>
  ⟨rfl, shr1_toNat code, shl1_toNat code⟩

/-- Settles O18: the word between the two passes is the left word of the first. -/
theorem preCipherChainsTwoPasses : Obligations.PreCipherChainsTwoPasses := by
  intro t k k'
  constructor
  · rintro rfl
    exact ⟨(enc t ⟨k.k1, k.k2⟩).left, rfl, rfl⟩
  · rintro ⟨w, first, second⟩
    simp only [preCipher, first, second]

/-! XorStep (R145). -/

theorem bswap32_eq (w : Word) :
    bswap32 w = w.extractLsb' 0 8 ++ w.extractLsb' 8 8 ++ w.extractLsb' 16 8 ++ w.extractLsb' 24 8 := rfl

theorem slot_of_lt (t : Table) {i : Nat} (h : i < 0x412) : slot t i = t[i] := slot_getElem t ⟨i, h⟩

theorem slot_xorStep (slots : Nat) (k : KeyCode) (t : Table) {i : Nat} (h : i < 0x412) :
    slot (xorStep slots k t) i = if i < slots then slot t i ^^^ bswap32 (k.parity i) else slot t i := by
  rw [slot_of_lt _ h, slot_of_lt _ h, xorStep, Vector.getElem_mapIdx]

/-- Settles O19. -/
theorem xorStepAlternatesByParity : Obligations.XorStepAlternatesByParity := by
  intro slots k t i h
  rw [slot_xorStep slots k t h, bswap32_eq, KeyCode.parity]

/-! Rebuild (R146). -/

/-- The table with the slots 2n and 2n + 1 rewritten from an output block: the right word in the even slot. -/
def pairSet (t : Table) (n : Nat) (b : Block) : Table :=
  (t.setIfInBounds (2 * n) b.right).setIfInBounds (2 * n + 1) b.left

theorem slot_setIfInBounds (t : Table) {i j : Nat} (w : Word) (h : j < 0x412) :
    slot (t.setIfInBounds i w) j = if j = i then w else slot t j := by
  rw [slot_of_lt _ h, slot_of_lt _ h, Vector.getElem_setIfInBounds h]
  simp only [eq_comm]

theorem slot_pairSet (t : Table) (n : Nat) (b : Block) {j : Nat} (h : j < 0x412) :
    slot (pairSet t n b) j = if j = 2 * n then b.right else if j = 2 * n + 1 then b.left else slot t j := by
  rw [pairSet, slot_setIfInBounds _ _ h, slot_setIfInBounds _ _ h]
  by_cases even : j = 2 * n
  · rw [if_pos even, if_neg (by omega), if_pos even]
  · rw [if_neg even, if_neg even]

/-- The table and the scratch block after `n` iterations of the rebuild of `t`. -/
def rebuilding (t : Table) : Nat → Table × Block
  | 0 => (t, ⟨0, 0⟩)
  | n + 1 =>
    let e := enc (rebuilding t n).1 (rebuilding t n).2
    (pairSet (rebuilding t n).1 n e, e)

/-- The recursion of the rebuild, entered after `n` iterations. -/
theorem rebuildFrom_rebuilding (t : Table) (m n : Nat) :
    rebuildFrom m (2 * n) (rebuilding t n).2 (rebuilding t n).1 = (rebuilding t (n + m)).1 := by
  induction m generalizing n with
  | zero => rfl
  | succ m ih =>
    rw [← Nat.add_assoc, Nat.add_right_comm]
    exact ih (n + 1)

theorem rebuildFrom_zero (t : Table) (m : Nat) : rebuildFrom m 0 ⟨0, 0⟩ t = (rebuilding t m).1 := by
  simpa only [Nat.zero_add, Nat.mul_zero, rebuilding] using rebuildFrom_rebuilding t m 0

theorem rebuild_eq_rebuilding (t : Table) : rebuild t = (rebuilding t 0x209).1 := rebuildFrom_zero t 0x209

theorem slot_rebuilding_succ (t : Table) (n : Nat) {j : Nat} (h : j < 0x412) :
    slot (rebuilding t (n + 1)).1 j =
      if j = 2 * n then (rebuilding t (n + 1)).2.right
      else if j = 2 * n + 1 then (rebuilding t (n + 1)).2.left
      else slot (rebuilding t n).1 j := slot_pairSet _ n _ h

/-- No iteration touches the slots of an earlier one. -/
theorem slot_rebuilding_later (t : Table) {n m j : Nat} (h : j < 0x412) (below : j < 2 * n) (later : n ≤ m) :
    slot (rebuilding t m).1 j = slot (rebuilding t n).1 j := by
  induction m, later using Nat.le_induction with
  | base => rfl
  | succ m later ih => rw [slot_rebuilding_succ t m h, if_neg (by omega), if_neg (by omega), ih]

/-- Settles O20: a pair of slots keeps what its own iteration wrote. -/
theorem rebuildCiphersUnderTheTableItRewrites : Obligations.RebuildCiphersUnderTheTableItRewrites := by
  intro t
  refine ⟨fun n => (rebuilding t n).1, fun n => (rebuilding t n).2, rfl, rfl,
    fun n _ => ⟨rfl, fun j h => slot_rebuilding_succ t n h⟩, rebuild_eq_rebuilding t, fun n hn => ?_⟩
  rw [rebuild_eq_rebuilding]
  constructor
  · rw [slot_rebuilding_later t (n := n + 1) (by omega) (by omega) (by omega), slot_rebuilding_succ t n (by omega),
      if_pos rfl]
  · rw [slot_rebuilding_later t (n := n + 1) (by omega) (by omega) (by omega), slot_rebuilding_succ t n (by omega),
      if_neg (by omega), if_pos rfl]

/-! The passes (R147, R148, R149). -/

theorem specPass_unscaled {cfg : Config} {p : Nat} (other : p ≠ cfg.ksScaleAfterPass) (x : Schedule) :
    specPass cfg p x = applyPass cfg.ksXorSlots x := if_neg other

theorem specSchedule_full (cfg : Config) (base : Table) (code : Word) :
    specSchedule cfg base code 1 = specPass cfg 3 (specSchedule cfg base code 0) := by
  rw [specSchedule, if_neg (by decide), specSchedule, if_pos rfl]

/-- Settles O22: the third pass of FULL runs on the LIGHT result, and no scaling follows it. -/
theorem fullIsLightAndOnePass : Obligations.FullIsLightAndOnePass := by
  intro cfg base code scaled
  have unscaled : 3 ≠ cfg.ksScaleAfterPass := by omega
  rw [ksSchedule_eq_specSchedule, ksSchedule_eq_specSchedule, specSchedule_full, specPass_unscaled unscaled]

/-! Operations that need a base table (R140, R286). -/

theorem withBase_supplied {gen : BitVec 1} {s : State} {base : Table} (supplied : baseTable s.cfg gen = some base)
    (k : Table → Host.Outcome State Fault Refusal) : withBase gen s k = k base := by rw [withBase, supplied]

theorem withBase_missing {gen : BitVec 1} {s : State} (missing : baseTable s.cfg gen = none)
    (k : Table → Host.Outcome State Fault Refusal) : withBase gen s k = .refused .baseNotSupplied := by
  rw [withBase, missing]

/-- KsInit's state and the response record of KS.INIT. -/
theorem scheduled_setResponse (base : Table) (code : Word) (stage : BitVec 1) (s : State) :
    (scheduled base code stage s).setResponse (some .done) = s.afterSchedule base code stage := by
  rw [scheduled_eq]
  rfl

theorem ksInitOp_supplied {gen : BitVec 1} {s : State} {base : Table} (supplied : baseTable s.cfg gen = some base)
    (code : Word) (stage : BitVec 1) : ksInitOp code stage gen s = .next (s.afterSchedule base code stage) := by
  rw [ksInitOp, withBase_supplied supplied, ← scheduled_setResponse]
  exact perform_ok (Op.bind_ok (change_apply _ _))

/-- Settles O21: the three spellings are one operation. -/
theorem ksInitDerivesTheSchedule : Obligations.KsInitDerivesTheSchedule := fun code stage _ _ =>
  ⟨fun _ supplied => ⟨ksInitOp_supplied supplied code stage, ksInitOp_supplied supplied code 0,
    ksInitOp_supplied supplied code 1⟩, fun missing => withBase_missing missing _⟩

/-- Settles O50. -/
theorem ntrUnlockRefusedPastRaw : Obligations.NtrUnlockRefusedPastRaw := by
  intro gen s
  constructor
  · intro pastRaw
    exact if_neg pastRaw
  · intro raw missing
    exact (if_pos raw).trans (withBase_missing missing _)

end Sys2Proof.Machine
end

section
/-! PROOFS. Where SA.DECRYPT stops (43_secure_area.md R180): its refusals, and the first unwritten word of either
stage (60_exceptions.md R295). -/

namespace Sys2Proof.Machine

/-! The refusals, and the run once it is accepted. -/

theorem areaRangeLegal_iff (cfg : Config) :
    areaRangeLegal cfg = true ↔ cfg.saLightBlock < 0x800 ∧ cfg.saFullStart + cfg.saFullCount ≤ 0x800 := by
  simp only [areaRangeLegal, Bool.and_eq_true, decide_eq_true_eq]

theorem exec_saDecrypt_range (code : Word) (gen : BitVec 1) {s : State}
    (leaves : 0x800 ≤ s.cfg.saLightBlock ∨ 0x800 < s.cfg.saFullStart + s.cfg.saFullCount) :
    exec (.saDecrypt code gen) s = .refused .areaRange :=
  if_neg fun legal => by
    obtain ⟨light, full⟩ := (areaRangeLegal_iff s.cfg).1 legal
    omega

theorem exec_saDecrypt_legal (code : Word) (gen : BitVec 1) {s : State} (light : s.cfg.saLightBlock < 0x800)
    (full : s.cfg.saFullStart + s.cfg.saFullCount ≤ 0x800) :
    exec (.saDecrypt code gen) s = withBase gen s fun base => perform (do saDecrypt base code; pure .done) s :=
  if_pos ((areaRangeLegal_iff s.cfg).2 ⟨light, full⟩)

/-- An accepted SA.DECRYPT answers the early end of its stages. -/
theorem exec_saDecrypt_stops {code : Word} {gen : BitVec 1} {base : Table} {s t : State} {e : Stop}
    (supplied : baseTable s.cfg gen = some base) (light : s.cfg.saLightBlock < 0x800)
    (full : s.cfg.saFullStart + s.cfg.saFullCount ≤ 0x800) (run : saDecrypt base code s = .error e t) :
    exec (.saDecrypt code gen) s = .next (takeStop e t) := by
  rw [exec_saDecrypt_legal code gen light full, withBase_supplied supplied]
  exact perform_error (Op.bind_error run)

/-! Unwritten words. -/

theorem HoldsBlock.written {a : Area} {k j : Nat} {b : Block} (h : HoldsBlock a k b) (hj : j < 2) :
    (areaWord a (2 * k + j)).written = true := by
  obtain ⟨even, odd⟩ := h
  obtain rfl | rfl : j = 0 ∨ j = 1 := by omega
  · rw [Nat.add_zero, even]
    rfl
  · rw [odd]
    rfl

theorem readArea_written {i : Nat} (hi : i < 0x1000) {s : State} (h : (areaWord s.area i).written = true) :
    readArea i s = .ok (areaWord s.area i).val s := by rw [readArea_apply hi, if_pos h]

theorem readArea_unwritten {i : Nat} (hi : i < 0x1000) {s : State} (h : (areaWord s.area i).written = false) :
    readArea i s = .error (.event (.uninit (.port (.sa ⟨i, hi⟩)))) s := by
  rw [readArea_apply hi, if_neg (by simp [h])]

/-- DecBlock on a block whose first unwritten word is word `j` of the two: nothing is written. -/
theorem decBlock_unwritten {k j : Nat} (hi : 2 * k + j < 0x1000) (hj : j < 2) {s : State}
    (evenWritten : j = 1 → (areaWord s.area (2 * k)).written = true)
    (unwritten : (areaWord s.area (2 * k + j)).written = false) :
    decBlock k s = .error (.event (.uninit (.port (.sa ⟨2 * k + j, hi⟩)))) s := by
  unfold decBlock
  obtain rfl | rfl : j = 0 ∨ j = 1 := by omega
  · exact Op.bind_error (readArea_unwritten hi unwritten)
  · rw [Op.bind_ok (readArea_written (by omega) (evenWritten rfl))]
    exact Op.bind_error (readArea_unwritten hi unwritten)

theorem decBlocksFrom_add (n m k : Nat) :
    decBlocksFrom (n + m) k = (decBlocksFrom n k >>= fun _ => decBlocksFrom m (k + n)) := by
  induction n generalizing k with
  | zero => rw [Nat.zero_add, decBlocksFrom, pure_bind, Nat.add_zero]
  | succ n ih =>
    rw [Nat.succ_add, decBlocksFrom, decBlocksFrom, bind_assoc, ih (k + 1), Nat.add_right_comm k 1 n,
      Nat.add_assoc k n 1]

/-- The blocks before the first unwritten word are decrypted, and it ends the run. -/
theorem decBlocksFrom_unwritten {n start k j : Nat} (hi : 2 * k + j < 0x1000) (hj : j < 2) {s : State}
    {c : Nat → Block} (above : start ≤ k) (below : k < start + n)
    (held : ∀ i, start ≤ i → i < k → HoldsBlock s.area i (c i))
    (evenWritten : j = 1 → (areaWord s.area (2 * k)).written = true)
    (unwritten : (areaWord s.area (2 * k + j)).written = false) :
    decBlocksFrom n start s = .error (.event (.uninit (.port (.sa ⟨2 * k + j, hi⟩))))
      (s.setArea (blocksSet (fun i => dec s.cipher.sched.t (c i)) (k - start) start s.area)) := by
  obtain ⟨before, rfl⟩ := Nat.exists_eq_add_of_le above
  obtain ⟨after, rfl⟩ : ∃ after, n = before + (after + 1) := ⟨n - before - 1, by omega⟩
  have kept (i : Nat) (inside : i < 0x1000) (late : start + before ≤ i / 2) :=
    areaWord_blocksSet_outside (fun i => dec s.cipher.sched.t (c i)) (n := before) (k := start) s.area (by omega)
      inside (by omega)
  rw [decBlocksFrom_add, Op.bind_ok (decBlocksFrom_holding (by omega) held), decBlocksFrom, Nat.add_sub_cancel_left]
  refine Op.bind_error (decBlock_unwritten hi hj ?_ ?_)
  · intro odd
    rw [State.setArea_area, kept _ (by omega) (by omega)]
    exact evenWritten odd
  · rw [State.setArea_area, kept _ hi (by omega)]
    exact unwritten

/-! The two stages, stopped. -/

/-- The light stage stops with the LIGHT schedule written and SA as before (R181). -/
theorem saDecrypt_light_unwritten {base : Table} {code : Word} {s : State} {j : Nat}
    (hi : 2 * s.cfg.saLightBlock + j < 0x1000) (hj : j < 2)
    (evenWritten : j = 1 → (areaWord s.area (2 * s.cfg.saLightBlock)).written = true)
    (unwritten : (areaWord s.area (2 * s.cfg.saLightBlock + j)).written = false) :
    saDecrypt base code s =
      .error (.event (.uninit (.port (.sa ⟨2 * s.cfg.saLightBlock + j, hi⟩)))) (scheduled base code 0 s) := by
  unfold saDecrypt ksInit
  rw [Op.bind_ok (change_apply _ _), Op.bind_ok (peek_apply _ _)]
  exact Op.bind_error (decBlock_unwritten (s := scheduled base code 0 s) hi hj evenWritten unwritten)

/-- What is left of SA.DECRYPT after the light stage on a written block: the full range under the FULL schedule
(R182). -/
theorem saDecrypt_full_stage {base : Table} {code : Word} {s : State} {c : Block} (light : s.cfg.saLightBlock < 0x800)
    (held : HoldsBlock s.area s.cfg.saLightBlock c) :
    saDecrypt base code s = decBlocksFrom s.cfg.saFullCount s.cfg.saFullStart
      ((scheduled base code 1 s).setArea (lightArea base code c s)) := by
  have lightStage := decBlock_holding light (s := scheduled base code 0 s) held
  rw [scheduled_sched] at lightStage
  unfold saDecrypt ksInit
  rw [Op.bind_ok (change_apply _ _), Op.bind_ok (peek_apply _ _), scheduled_cfg, Op.bind_ok lightStage,
    Op.bind_ok (change_apply _ _), Op.bind_ok (peek_apply _ _), Op.bind_ok (peek_apply _ _),
    scheduled_setArea_scheduled]
  rfl

/-- What the full stage finds in a block: the light block decrypted once already, every other as before. -/
def afterLight (cfg : Config) (base : Table) (code : Word) (plain : Nat → Block) (k : Nat) : Block :=
  if k = cfg.saLightBlock then dec (specSchedule cfg base code 0).t (plain k) else plain k

theorem holdsBlock_lightArea {base : Table} {code : Word} {plain : Nat → Block} {s : State} {k : Nat}
    (light : s.cfg.saLightBlock < 0x800) (hk : k < 0x800) (held : HoldsBlock s.area k (plain k)) :
    HoldsBlock (lightArea base code (plain s.cfg.saLightBlock) s) k (afterLight s.cfg base code plain k) := by
  unfold lightArea afterLight
  split_ifs with same
  · rw [same]
    exact holdsBlock_blockSet_same _ _ light
  · exact held.blockSet_other _ light hk same

/-- SA where the full stage stops: the light block and the blocks of the range before block `k` decrypted. -/
def stoppedArea (base : Table) (code : Word) (plain : Nat → Block) (k : Nat) (s : State) : Area :=
  blocksSet (fun i => dec (specSchedule s.cfg base code 1).t (afterLight s.cfg base code plain i))
    (k - s.cfg.saFullStart) s.cfg.saFullStart (lightArea base code (plain s.cfg.saLightBlock) s)

/-- The full stage stops with the FULL schedule written, at a word the light stage has not written either. -/
theorem saDecrypt_full_unwritten {base : Table} {code : Word} {plain : Nat → Block} {s : State} {k j : Nat}
    (hi : 2 * k + j < 0x1000) (hj : j < 2) (light : s.cfg.saLightBlock < 0x800)
    (above : s.cfg.saFullStart ≤ k) (below : k < s.cfg.saFullStart + s.cfg.saFullCount)
    (held : ∀ k', k' = s.cfg.saLightBlock ∨ (s.cfg.saFullStart ≤ k' ∧ k' < k) → HoldsBlock s.area k' (plain k'))
    (evenWritten : j = 1 → (areaWord s.area (2 * k)).written = true)
    (unwritten : (areaWord s.area (2 * k + j)).written = false) :
    saDecrypt base code s = .error (.event (.uninit (.port (.sa ⟨2 * k + j, hi⟩))))
      ((scheduled base code 1 s).setArea (stoppedArea base code plain k s)) := by
  have apart : k ≠ s.cfg.saLightBlock := fun same => by
    rw [(held k (.inl same)).written hj] at unwritten
    cases unwritten
  have kept (i : Nat) (inside : i < 0x1000) (same : i / 2 = k) :
      areaWord (lightArea base code (plain s.cfg.saLightBlock) s) i = areaWord s.area i :=
    areaWord_blockSet_other s.area _ light inside (same.trans_ne apart)
  have stops := decBlocksFrom_unwritten (s := (scheduled base code 1 s).setArea
      (lightArea base code (plain s.cfg.saLightBlock) s)) hi hj above below
    (fun i above below => holdsBlock_lightArea light (by omega) (held i (.inr ⟨above, below⟩)))
    (fun odd => (congrArg Reg.written (kept _ (by omega) (by omega))).trans (evenWritten odd))
    ((congrArg Reg.written (kept _ hi (by omega))).trans unwritten)
  rw [saDecrypt_full_stage light (held _ (.inl rfl)), stops, State.setArea_setArea, State.setArea_cipher,
    scheduled_sched]
  rfl

/-- Settles O37. -/
theorem saDecryptStopsOnUnwrittenWords : Obligations.SaDecryptStopsOnUnwrittenWords := by
  intro code gen s
  refine ⟨exec_saDecrypt_range code gen, fun light full => ⟨fun missing => ?_, fun base supplied => ⟨?_, ?_⟩⟩⟩
  · exact (exec_saDecrypt_legal code gen light full).trans (withBase_missing missing _)
  · intro j hi hj evenWritten unwritten
    rw [exec_saDecrypt_stops supplied light full (saDecrypt_light_unwritten hi hj evenWritten unwritten),
      ← scheduled_setResponse]
    rfl
  · intro plain k j hi hj above below held evenWritten unwritten
    have inside : s.cfg.saFullStart + (k - s.cfg.saFullStart) ≤ 0x800 := by omega
    refine ⟨stoppedArea base code plain k s, ?_, fun k' above' below' => ?_, fun outside => ?_,
      fun i hi other outside => ?_⟩
    · rw [exec_saDecrypt_stops supplied light full
        (saDecrypt_full_unwritten hi hj light above below held evenWritten unwritten), ← scheduled_setResponse]
      rfl
    · exact holdsBlock_blocksSet _ _ inside above' (by omega)
    · exact (holdsBlock_blockSet_same _ _ light).blocksSet_outside _ inside light (by omega)
    · exact (areaWord_blocksSet_outside _ _ inside hi (by omega)).trans
        (areaWord_blockSet_other _ _ light hi other)

end Sys2Proof.Machine
end

section
/-! PROOFS. The command frames as operations of their own (42_ntr_command.md): SES.SEED, CMD.ACTKEY1 and CMD.BUILD from
every state, and the session counter over a list of builds. -/

namespace Sys2Proof.Machine

/-! SES.SEED (R160). -/

theorem Env.afterDraw_draws (e : Env) : e.afterDraw.draws = e.draws.tail := by
  unfold Env.afterDraw
  cases given : e.draws with
  | nil => exact given
  | cons d ds => rfl

theorem Env.afterDraws_draws (e : Env) (n : Nat) : (e.afterDraws n).draws = e.draws.drop n := by
  induction n with
  | zero => rfl
  | succ n ih => rw [Env.afterDraws, Env.afterDraw_draws, ih, List.tail_drop]

/-- A draw that the oracle lists is the answer given. -/
theorem Env.drawAt_listed {e : Env} {n : Nat} {d : Word} {ds : List Word} (listed : e.draws.drop n = d :: ds) :
    e.drawAt n = d := by
  have given : (e.afterDraws n).draws = d :: ds := (e.afterDraws_draws n).trans listed
  rw [Env.drawAt, Env.nextDraw, given]

theorem exec_sesSeed (s : State) :
    exec .sesSeed s = .next (((s.setEnv (s.env.afterDraws 6)).setCommand
      { s.command with ses := s.env.session, svalid := true }).setResponse (some .done)) := by
  change execSesSeed s = _
  unfold execSesSeed
  exact perform_ok (Op.bind_ok (sesSeed_apply s))

/-- Settles O23: the first six words the oracle lists are the six draws, in the order of the fields. -/
theorem sesSeedDrawsSixFields : Obligations.SesSeedDrawsSixFields := by
  refine fun s => ⟨exec_sesSeed s, fun d0 d1 d2 d3 d4 d5 ds listed => ⟨?_, ?_⟩⟩
  · have listedFrom (n : Nat) : s.env.draws.drop n = (d0 :: d1 :: d2 :: d3 :: d4 :: d5 :: ds).drop n :=
      congrArg (List.drop n) listed
    rw [Env.session, Env.drawAt_listed (listedFrom 0), Env.drawAt_listed (listedFrom 1),
      Env.drawAt_listed (listedFrom 2), Env.drawAt_listed (listedFrom 3), Env.drawAt_listed (listedFrom 4),
      Env.drawAt_listed (listedFrom 5)]
  · rw [Env.afterDraws_draws, listed]
    rfl

/-! CMD.ACTKEY1 and CMD.BUILD (R161, R162). -/

/-- Settles O24. -/
theorem actKey1BuildsThePlainFrame : Obligations.ActKey1BuildsThePlainFrame := fun gen _ =>
  ⟨perform_actKey1Op gen, perform_actKey1Op_no_session gen⟩

theorem exec_cmdBuild (op : BitVec 8) (blk : BitVec 16) {s : State} (build : s.canBuild) :
    exec (.cmdBuild op blk) s = .next (s.afterBuild op blk) := perform_cmdBuildOp op blk build

/-- Settles O25. -/
theorem cmdBuildPacksSealsAndCounts : Obligations.CmdBuildPacksSealsAndCounts := fun op blk _ =>
  ⟨exec_cmdBuild op blk, perform_cmdBuildOp_no_session op blk, perform_cmdBuildOp_no_table op blk⟩

/-! The session counter over a list of builds (R167). -/

/-- The builds among `ops` that step SES.CNT. -/
def countedBuilds (cfg : Config) (ops : List (BitVec 8 × BitVec 16)) : Nat :=
  if cfg.cntIncAll = true then ops.length else (ops.filter fun o => o.1 = cfg.opSecureRead).length

theorem countedBuilds_nil (cfg : Config) : countedBuilds cfg [] = 0 := ite_self 0

theorem countedBuilds_cons_counted {cfg : Config} {o : BitVec 8 × BitVec 16} (ops : List (BitVec 8 × BitVec 16))
    (counted : o.1 = cfg.opSecureRead ∨ cfg.cntIncAll = true) :
    countedBuilds cfg (o :: ops) = countedBuilds cfg ops + 1 := by
  unfold countedBuilds
  by_cases all : cfg.cntIncAll = true
  · rw [if_pos all, if_pos all, List.length_cons]
  · have secureRead : o.1 = cfg.opSecureRead := counted.resolve_right all
    rw [if_neg all, if_neg all, List.filter_cons_of_pos (by simpa using secureRead), List.length_cons]

theorem countedBuilds_cons_uncounted {cfg : Config} {o : BitVec 8 × BitVec 16} (ops : List (BitVec 8 × BitVec 16))
    (uncounted : ¬ (o.1 = cfg.opSecureRead ∨ cfg.cntIncAll = true)) :
    countedBuilds cfg (o :: ops) = countedBuilds cfg ops := by
  obtain ⟨other, notAll⟩ := not_or.mp uncounted
  rw [countedBuilds, countedBuilds, if_neg notAll, if_neg notAll, List.filter_cons_of_neg (by simpa using other)]

/-- One build more before `ops`. -/
theorem countAfter_add_countedBuilds (cfg : Config) (o : BitVec 8 × BitVec 16) (ops : List (BitVec 8 × BitVec 16))
    (cnt : BitVec 20) :
    countAfter cfg o.1 cnt + BitVec.ofNat 20 (countedBuilds cfg ops) =
      cnt + BitVec.ofNat 20 (countedBuilds cfg (o :: ops)) := by
  unfold countAfter
  split
  case isTrue counted =>
    rw [countedBuilds_cons_counted ops counted, BitVec.ofNat_add, BitVec.add_assoc, BitVec.add_comm 1]
    rfl
  case isFalse uncounted => rw [countedBuilds_cons_uncounted ops uncounted]

/-- The state after CMD.BUILD of each of `ops`. -/
def State.afterBuilds (s : State) : List (BitVec 8 × BitVec 16) → State
  | [] => s
  | o :: ops => (s.afterBuild o.1 o.2).afterBuilds ops

theorem afterBuild_canBuild {op : BitVec 8} {blk : BitVec 16} {s : State} (build : s.canBuild) :
    (s.afterBuild op blk).canBuild := build

theorem afterBuild_ses (op : BitVec 8) (blk : BitVec 16) (s : State) :
    (s.afterBuild op blk).command.ses = { s.command.ses with cnt := countAfter s.cfg op s.command.ses.cnt } := rfl

theorem execAll_cmdBuild (ops : List (BitVec 8 × BitVec 16)) {s : State} (build : s.canBuild) :
    execAll (ops.map fun o => .cmdBuild o.1 o.2) s = some (s.afterBuilds ops) := by
  induction ops generalizing s with
  | nil => rfl
  | cons o ops ih =>
    rw [List.map_cons, execAll, exec_cmdBuild o.1 o.2 build, State.afterBuilds]
    exact ih (afterBuild_canBuild build)

theorem afterBuilds_cipher (ops : List (BitVec 8 × BitVec 16)) (s : State) : (s.afterBuilds ops).cipher = s.cipher := by
  induction ops generalizing s with
  | nil => rfl
  | cons o ops ih => exact ih (s.afterBuild o.1 o.2)

theorem afterBuilds_svalid (ops : List (BitVec 8 × BitVec 16)) (s : State) :
    (s.afterBuilds ops).command.svalid = s.command.svalid := by
  induction ops generalizing s with
  | nil => rfl
  | cons o ops ih => exact ih (s.afterBuild o.1 o.2)

theorem afterBuilds_ses (ops : List (BitVec 8 × BitVec 16)) (s : State) :
    (s.afterBuilds ops).command.ses =
      { s.command.ses with cnt := s.command.ses.cnt + BitVec.ofNat 20 (countedBuilds s.cfg ops) } := by
  induction ops generalizing s with
  | nil => rw [State.afterBuilds, countedBuilds_nil, BitVec.add_zero]
  | cons o ops ih =>
    have cfg : (s.afterBuild o.1 o.2).cfg = s.cfg := rfl
    rw [State.afterBuilds, ih, afterBuild_ses, cfg, ← countAfter_add_countedBuilds]

/-- Settles O30, by induction on the builds. -/
theorem counterCountsSecureReads : Obligations.CounterCountsSecureReads := fun ops s build =>
  ⟨s.afterBuilds ops, execAll_cmdBuild ops build, congrArg Session.cnt (afterBuilds_ses ops s), afterBuilds_cipher ops s,
    (afterBuilds_svalid ops s).trans build.1, by rw [afterBuilds_ses]⟩

end Sys2Proof.Machine
end

section
/-! PROOFS. SA.DECRYPT to its end (43_secure_area.md R180 to R183): the light block and the full range may overlap, and a
block of both is decrypted twice. -/

namespace Sys2Proof.Machine

/-- SA after both stages: the full range decrypted under the FULL table, on top of the light stage (R181, R182). -/
def decryptedArea (base : Table) (code : Word) (plain : Nat → Block) (s : State) : Area :=
  blocksSet (fun k => dec (specSchedule s.cfg base code 1).t (afterLight s.cfg base code plain k))
    s.cfg.saFullCount s.cfg.saFullStart (lightArea base code (plain s.cfg.saLightBlock) s)

/-- The response record of the completed operation stands beside SA, not over it. -/
theorem scheduled_setArea_setResponse (base : Table) (code : Word) (stage : BitVec 1) (a : Area) (s : State) :
    ((scheduled base code stage s).setArea a).setResponse (some .done) =
      (s.afterSchedule base code stage).setArea a := by
  rw [← scheduled_setResponse]
  rfl

theorem exec_saDecrypt_completes {code : Word} {gen : BitVec 1} {base : Table} {plain : Nat → Block} {s : State}
    (supplied : baseTable s.cfg gen = some base) (light : s.cfg.saLightBlock < 0x800)
    (full : s.cfg.saFullStart + s.cfg.saFullCount ≤ 0x800)
    (held : ∀ k, k = s.cfg.saLightBlock ∨ (s.cfg.saFullStart ≤ k ∧ k < s.cfg.saFullStart + s.cfg.saFullCount) →
      HoldsBlock s.area k (plain k)) :
    exec (.saDecrypt code gen) s = .next ((s.afterSchedule base code 1).setArea (decryptedArea base code plain s)) := by
  have run := saDecrypt_holding (base := base) (code := code) light full (held _ (.inl rfl)) fun k above below =>
    holdsBlock_lightArea light (by omega) (held k (.inr ⟨above, below⟩))
  exact (execSaDecrypt_ok supplied light full run).trans (congrArg _ (scheduled_setArea_setResponse ..))

/-- Settles O35: the full stage finds in each block what the light stage left there. -/
theorem saDecryptRunsBothStages : Obligations.SaDecryptRunsBothStages := by
  intro code gen base plain s supplied light full held
  refine ⟨decryptedArea base code plain s, exec_saDecrypt_completes supplied light full held,
    fun k above below => ?inRange, fun outside => ?lightBlock, fun i hi other outside => ?elsewhere⟩
  case inRange => exact holdsBlock_blocksSet _ _ full above below
  case lightBlock => exact (holdsBlock_blockSet_same _ _ light).blocksSet_outside _ full light outside
  case elsewhere =>
    exact (areaWord_blocksSet_outside _ _ full hi outside).trans (areaWord_blockSet_other _ _ light hi other)

end Sys2Proof.Machine
end

section
/-! PROOFS. AES.SESSION with an engine that never completes (44_ctr_aes_session.md R196): every read and call is made,
then the one wait stops. -/

namespace Sys2Proof.Machine

/-- A completion wait that is never answered stops there. -/
theorem awaitAccept_unanswered (w : Wait) {s : State} (never : s.env.nextAccept = none) :
    awaitAccept w s = .error (unsatisfied s.cfg.pollBound w) (s.setEnv s.env.afterAccept) := by
  unfold awaitAccept
  rw [never]
  rfl

theorem firstUnwritten_messageReads {dev : BitVec 1} {s : State} (ready : s.sessionReady dev) :
    firstUnwritten s messageReads = none := by
  have pastKey : ∀ i ∈ messageReads, 4 ≤ i.val := by decide
  exact firstUnwritten_eq_none.2 fun i hi => ready i fun _ => pastKey i hi

theorem firstUnwritten_keyReads {dev : BitVec 1} (h : dev ≠ 1) {s : State} (ready : s.sessionReady dev) :
    firstUnwritten s keyReads = none :=
  firstUnwritten_eq_none.2 fun i _ => ready i fun development => absurd development h

/-- The state in which a session waits for its engine: `calls` made and one answer used up. -/
def sessionWaiting (calls : List EnvCall) (s : State) : State :=
  (s.setTrace (s.trace ++ calls)).setEnv s.env.afterAccept

theorem sessionWaiting_scrambled (calls : List EnvCall) (s : State) :
    sessionWaiting calls (scrambled s) = sessionWaiting (.keyScramble s.keySource :: calls) s := by
  simp [sessionWaiting, scrambled, State.setTrace, State.setEnv]

theorem decryptMessage_unanswered (key : Quad) (x : Trio × Quad × Quad) {s : State} (uncut : s.resetIn = none)
    (never : s.env.nextAccept = none) :
    decryptMessage key x s = .error (unsatisfied s.cfg.pollBound .aesEngine)
      (sessionWaiting [.ccmDecrypt key x.1 x.2.1 x.2.2] s) := by
  unfold decryptMessage
  rw [Op.bind_ok (call_apply _ uncut)]
  exact Op.bind_error (awaitAccept_unanswered .aesEngine never)

/-- Where a session stops when its words are written and the engine never completes. -/
theorem aesSession_unanswered {dev : BitVec 1} {s : State} (uncut : s.resetIn = none) (ready : s.sessionReady dev)
    (never : s.env.nextAccept = none) :
    aesSession dev s = .error (unsatisfied s.cfg.pollBound .aesEngine) (sessionWaiting (sessionCalls s dev) s) := by
  have message := firstUnwritten_messageReads ready
  rw [aesSession_eq]
  by_cases h : dev = 1
  · rw [Op.bind_ok (sessionKeySource_development h s), Op.bind_ok (readMessage_reads.ok message),
      decryptMessage_unanswered _ _ uncut never, sessionCalls, if_pos h]
    rfl
  · rw [Op.bind_ok (sessionKeySource_retail h uncut (firstUnwritten_keyReads h ready)),
      Op.bind_ok (readMessage_reads.ok (s := scrambled s) message),
      decryptMessage_unanswered _ _ (s := scrambled s) uncut never, sessionWaiting_scrambled, sessionCalls, if_neg h]
    rfl

theorem exec_aesSession_unanswered {dev : BitVec 1} {s : State} (uncut : s.resetIn = none) (ready : s.sessionReady dev)
    (never : s.env.nextAccept = none) :
    exec (.aesSession dev) s =
      .next (takeStop (unsatisfied s.cfg.pollBound .aesEngine) (sessionWaiting (sessionCalls s dev) s)) :=
  perform_error (Op.bind_error (aesSession_unanswered uncut ready never))

/-- Settles O39: the stop of the wait is taken as a hang or as the event, by whether the bound is finite. -/
theorem aesSessionHangsWithItsEngine : Obligations.AesSessionHangsWithItsEngine := by
  intro dev s uncut ready never
  have kept := takeStop_elements (unsatisfied s.cfg.pollBound .aesEngine) (sessionWaiting (sessionCalls s dev) s)
  obtain ⟨trace, -, -, log⟩ :=
    takeStop_outside (unsatisfied s.cfg.pollBound .aesEngine) (sessionWaiting (sessionCalls s dev) s)
  obtain ⟨hangs, bounded⟩ :=
    takeStop_unsatisfied s.cfg.pollBound .aesEngine (sessionWaiting (sessionCalls s dev) s)
  exact ⟨_, exec_aesSession_unanswered uncut ready never, congrArg (·.aes) kept, log, trace,
    fun unbounded => by rw [hangs unbounded]; exact ⟨rfl, rfl⟩,
    fun finite => by rw [bounded finite]; exact ⟨rfl, rfl⟩⟩

end Sys2Proof.Machine
end

section
/-! PROOFS. Host memory after the words of a transfer (45_ctr_transport.md R216, 20_memory.md R62): the popped words lie
from the destination up, in order, at addresses modulo 2^32. -/

namespace Sys2Proof.Machine

/-- An address is at an offset from a base exactly when it is an address and its distance from the base is the offset. -/
theorem eq_toNat_add_iff (a : Nat) (base off : Word) :
    a = (base + off).toNat ↔ a < 2 ^ 32 ∧ (BitVec.ofNat 32 a - base).toNat = off.toNat := by
  rw [BitVec.toNat_inj, sub_eq_iff_eq_add']
  constructor
  · rintro rfl
    exact ⟨BitVec.isLt _, by rw [BitVec.ofNat_toNat, BitVec.setWidth_eq]⟩
  · rintro ⟨inside, same⟩
    rw [← same, BitVec.toNat_ofNat, Nat.mod_eq_of_lt inside]

/-- What a read gives after one word is stored, by the distance of the address from the destination (R216). -/
theorem read_storeAt (m : Memory) (dest w : Word) {cnt : Word} (counted : cnt.toNat % 4 = 0) (a : Nat) :
    Memory.read (storeAt m dest cnt w) a =
      let j := (BitVec.ofNat 32 a - dest).toNat
      if a < 2 ^ 32 ∧ cnt.toNat ≤ j ∧ j < cnt.toNat + 4 then some (w.extractLsb' (8 * (j % 4)) 8)
      else Memory.read m a := by
  have byteAt (off : Word) (k : Nat) (hk : off.toNat = k) (lt : k < 4) : a = (dest + cnt + off).toNat ↔
      a < 2 ^ 32 ∧ (BitVec.ofNat 32 a - dest).toNat = cnt.toNat + k := by
    rw [BitVec.add_assoc, eq_toNat_add_iff, toNat_add_of_aligned counted (hk ▸ lt), hk]
  rw [storeLeavesTheSameFourBytes m dest cnt w a counted]
  simp only [eq_toNat_add_iff a dest cnt, byteAt 1 1 rfl (by decide), byteAt 2 2 rfl (by decide),
    byteAt 3 3 rfl (by decide)]
  generalize (BitVec.ofNat 32 a - dest).toNat = j
  by_cases stored : a < 2 ^ 32 ∧ cnt.toNat ≤ j ∧ j < cnt.toNat + 4
  · obtain ⟨inside, above, below⟩ := stored
    obtain ⟨k, hk, rfl⟩ : ∃ k < 4, j = cnt.toNat + k := ⟨j - cnt.toNat, by omega, by omega⟩
    have byte : (cnt.toNat + k) % 4 = k := by omega
    simp only [byte, inside, above, below]
    interval_cases k <;> simp
  · rw [if_neg stored, if_neg (by omega), if_neg (by omega), if_neg (by omega), if_neg (by omega)]

/-- The last of the words is stored after the others, at the count they bring. -/
theorem memAfter_succ (dest : Word) (n : Nat) : ∀ (m : Memory) (c : Word) (e : Env),
    memAfter (.memory dest) m c e (n + 1) =
      storeAt (memAfter (.memory dest) m c e n) dest (c + BitVec.ofNat 32 (4 * n)) (e.fifoAt n) := by
  induction n with
  | zero =>
    intro m c e
    rw [Nat.mul_zero, BitVec.add_zero]
    rfl
  | succ n ih =>
    intro m c e
    have next : c + 4 + BitVec.ofNat 32 (4 * n) = c + BitVec.ofNat 32 (4 * (n + 1)) := by
      rw [Nat.mul_succ, BitVec.ofNat_add, BitVec.add_assoc, BitVec.add_comm (BitVec.ofNat 32 (4 * n))]
      rfl
    rw [memAfter, ih, next, Env.fifoAt_succ]
    rfl

/-- Host memory after `n` words, none of which reaches round the address space to the first. -/
theorem read_memAfter (dest : Word) (m : Memory) (e : Env) {n : Nat} (fits : 4 * n ≤ 2 ^ 32) (a : Nat) :
    Memory.read (memAfter (.memory dest) m 0 e n) a =
      let j := (BitVec.ofNat 32 a - dest).toNat
      if a < 2 ^ 32 ∧ j < 4 * n then some ((e.fifoAt (j / 4)).extractLsb' (8 * (j % 4)) 8)
      else Memory.read m a := by
  induction n with
  | zero => simp [memAfter]
  | succ n ih =>
    have count : ((0 : Word) + BitVec.ofNat 32 (4 * n)).toNat = 4 * n := by
      rw [zero_add, BitVec.toNat_ofNat, Nat.mod_eq_of_lt (by omega)]
    rw [memAfter_succ, read_storeAt _ _ _ (by omega), count, ih (by omega)]
    generalize (BitVec.ofNat 32 a - dest).toNat = j
    dsimp only
    by_cases last : a < 2 ^ 32 ∧ 4 * n ≤ j ∧ j < 4 * n + 4
    · rw [if_pos last, if_pos (by omega), show j / 4 = n by omega]
    · rw [if_neg last]
      by_cases earlier : a < 2 ^ 32 ∧ j < 4 * n
      · rw [if_pos earlier, if_pos (by omega)]
      · rw [if_neg earlier, if_neg (by omega)]

/-- A request without a destination stores nothing (R216). -/
theorem memAfter_sinkOf_zero (dest : Word) (m : Memory) (c : Word) (e : Env) (n : Nat) :
    memAfter (sinkOf 0 dest) m c e n = m := memAfter_elsewhere (sink := .discard) nofun n m c e

end Sys2Proof.Machine
end

section
/-! PROOFS. CTR.XFER with a controller that ends ready and not busy (45_ctr_transport.md R210 to R218). -/

namespace Sys2Proof.Machine

theorem xferRequest_fits {pagesize blocks : Word} (fits : transferLength pagesize blocks < 2 ^ 32) (c : Quad)
    (sink : Sink) (s : State) :
    xferRequest c pagesize blocks sink s = perform (transferOp c pagesize blocks sink) s := if_neg (not_le.2 fits)

/-- The state a CTR.XFER leaves that popped `n` words. -/
def xferCompleted (c : Quad) (pagesize blocks : Word) (sink : Sink) (n : Nat) (left : List Sample) (s : State) : State :=
  (transferred c pagesize blocks sink n left s).setResponse (some (.count (BitVec.ofNat 32 (4 * n))))

theorem xferRequest_completes (c : Quad) {pagesize blocks : Word} (sink : Sink) {s : State} (prompt : s.promptStatus)
    (fits : transferLength pagesize blocks < 2 ^ 32) :
    xferRequest c pagesize blocks sink s =
      .next (xferCompleted c pagesize blocks sink (transferPops s.env.status (transferLength pagesize blocks / 4))
        (transferLeft s.env.status (transferLength pagesize blocks / 4)) s) :=
  (xferRequest_fits fits c sink s).trans
    (perform_ok (Op.bind_ok (transfer_answers c pagesize blocks sink s prompt fits)))

/-- What a completed CTR.XFER changes among the elements: the transfer registers and host memory. -/
theorem xferCompleted_elements (c : Quad) (pagesize blocks : Word) (sink : Sink) (n : Nat) (left : List Sample)
    (s : State) :
    (xferCompleted c pagesize blocks sink n left s).elements =
      { s.elements with
        transport := regsAfter s.cfg c pagesize blocks n
        mem := memAfter sink s.mem 0 s.env n } := by
  simp [xferCompleted, transferred, transferState, State.elements]

theorem xferCompleted_outside (c : Quad) (pagesize blocks : Word) (sink : Sink) (n : Nat) (left : List Sample)
    (s : State) :
    let t := xferCompleted c pagesize blocks sink n left s
    t.trace = s.trace ++ transferCalls s.cfg c t.transport ∧ t.env = (s.env.afterPops n).withStatus left ∧
      t.log = s.log ∧ t.hung = s.hung ∧ t.dev = s.dev := by
  simp [xferCompleted, transferred, transferState]

/-- Settles O44: what a transfer answers, with its stores read back. -/
theorem ctrXferDeliversItsWords : Obligations.CtrXferDeliversItsWords := by
  intro c0 c1 c2 c3 pagesize blocks dest dv s prompt fits
  have popped := transferPops_le s.env.status (transferLength pagesize blocks / 4)
  have within : 4 * transferPops s.env.status (transferLength pagesize blocks / 4) ≤ transferLength pagesize blocks := by
    omega
  have run := xferRequest_completes ⟨c0, c1, c2, c3⟩ (sinkOf dv dest) prompt fits
  have suffix := transferLeft_suffix s.env.status (transferLength pagesize blocks / 4)
  generalize transferLeft s.env.status (transferLength pagesize blocks / 4) = left at run suffix
  have elements := xferCompleted_elements ⟨c0, c1, c2, c3⟩ pagesize blocks (sinkOf dv dest)
    (transferPops s.env.status (transferLength pagesize blocks / 4)) left s
  obtain ⟨trace, env, log, hung, dev⟩ := xferCompleted_outside ⟨c0, c1, c2, c3⟩ pagesize blocks (sinkOf dv dest)
    (transferPops s.env.status (transferLength pagesize blocks / 4)) left s
  refine ⟨_, left, run, congrArg (·.transport) elements, within, rfl, trace, ?_, ?_, env, suffix,
    congrArg (·.cfg) elements, congrArg (·.cipher) elements, congrArg (·.command) elements, congrArg (·.area) elements,
    congrArg (·.aes) elements, congrArg (·.seq) elements, congrArg (·.inputs) elements, log, hung, dev,
    congrArg (·.inbox) elements⟩
  · rintro rfl
    exact (congrArg (·.mem) elements).trans (memAfter_sinkOf_zero dest s.mem 0 s.env _)
  · rintro rfl a
    exact (congrArg (fun x => Memory.read x.mem a) elements).trans
      (read_memAfter dest s.mem s.env (within.trans fits.le) a)

/-- While every sample is busy, each ready one brings a word until none is missing. -/
theorem pops_of_busy {xs : List Sample} (busy : ∀ y ∈ xs, y.busy = true) {n : Nat}
    (enough : n ≤ (xs.filter fun y => y.ready).length) : pops xs true n = n := by
  induction xs generalizing n with
  | nil =>
    obtain rfl : n = 0 := Nat.le_zero.1 enough
    rfl
  | cons x xs ih =>
    obtain ⟨now, later⟩ := List.forall_mem_cons.1 busy
    by_cases done : n = 0
    · exact done ▸ if_neg fun more => more.2 rfl
    have sampled : pops (x :: xs) true n = if x.ready then pops xs x.busy (n - 1) + 1 else pops xs x.busy n :=
      if_pos ⟨rfl, done⟩
    rw [sampled, now]
    rw [List.filter_cons] at enough
    cases ready : x.ready with
    | true =>
      rw [ready, if_pos rfl, List.length_cons] at enough
      rw [if_pos rfl, ih later (by omega)]
      omega
    | false =>
      rw [ready, if_neg Bool.false_ne_true] at enough
      rw [if_neg Bool.false_ne_true, ih later enough]

/-- Settles O45: the loop pops as many words as the length has. -/
theorem busyControllerDeliversAll : Obligations.BusyControllerDeliversAll := by
  intro c0 c1 c2 c3 pagesize blocks dest dv x xs s prompt samples busy stays fits enough
  have length := transferLength_mod pagesize blocks
  have all : 4 * transferPops s.env.status (transferLength pagesize blocks / 4) = transferLength pagesize blocks := by
    change transferLength pagesize blocks ≤ _ at enough
    rw [samples, transferPops, busy, pops_of_busy stays (by omega)]
    omega
  refine ⟨_, xferRequest_completes ⟨c0, c1, c2, c3⟩ (sinkOf dv dest) prompt fits, ?_,
    started_length (c := ⟨c0, c1, c2, c3⟩) fits s⟩
  exact congrArg (fun k => Reg.holding (BitVec.ofNat 32 k)) all

end Sys2Proof.Machine
end

section
/-! PROOFS. CTR.XFER toward a controller whose answer stays the same for ever (45_ctr_transport.md R219): where it
stands, and what it did. -/

namespace Sys2Proof.Machine

/-! One sample and one wait, no sample being given and the steady answer being all there is. -/

theorem sampleStatus_steady (w : Wait) {s : State} (steady : s.env.status = []) (bound : s.cfg.pollBound ≠ some 0) :
    sampleStatus w 0 s = .ok s.env.statusRest s := by
  have notReached : reachedBound s.cfg.pollBound 0 = false := by
    cases h : s.cfg.pollBound with
    | none => rfl
    | some b => exact decide_eq_false fun le => bound (by rw [h, Nat.le_zero.1 le])
  obtain ⟨sample, after⟩ := Env.sample_nil steady
  rw [sampleStatus, notReached, sample, after]
  rfl

theorem sampleStatus_bound_zero (w : Wait) {s : State} (bound : s.cfg.pollBound = some 0) :
    sampleStatus w 0 s = .error (unsatisfied s.cfg.pollBound w) s := if_pos (by rw [bound]; rfl)

theorem awaitStatus_steady (w : Wait) {goal : Sample → Bool} {s : State} (steady : s.env.status = [])
    (unmet : goal s.env.statusRest = false) :
    awaitStatus w goal s = .error (unsatisfied s.cfg.pollBound w) s := by
  have never : pollUntil s.cfg.pollBound goal s.env.statusRest 0 s.env.status = (false, []) := by
    rw [steady, pollUntil, unmet, Bool.and_false]
  rw [awaitStatus, never, Env.withStatus_self steady]
  rfl

/-! The three waits of a transfer that has started: `s` is the state it started in, `t` the one its loop leaves. -/

/-- The loop ends on its first sample. -/
theorem runPollLoop_ends (sink : Sink) {s : State} (steady : s.env.status = []) (bound : s.cfg.pollBound ≠ some 0)
    (ended : pollMore s.env.statusRest s = false) : runPollLoop sink s = .ok none s := by
  unfold runPollLoop
  rw [Op.bind_ok (sampleStatus_steady .pollLoop steady bound), Op.bind_ok (peek_apply _ _), pollFuel]
  exact pollLoop_done sink _ 1 none ended

/-- The loop waits for a sample that will never come. -/
theorem pollLoop_stalled (sink : Sink) (n : Nat) {x : Sample} (idle : Nat) (got : Option Word) {s : State}
    (more : pollMore x s = true) (stuck : stalled s = true) :
    pollLoop sink (n + 1) x idle got s = .error (unsatisfied s.cfg.pollBound .pollLoop) s := by
  simp only [pollLoop]
  rw [if_neg (by simp [more]), if_pos stuck]

/-- The poll loop never ends, or stops at its bound, be it zero or not. -/
theorem transferBody_stands_pollLoop (sink : Sink) {s : State} (steady : s.env.status = [])
    (busy : s.env.statusRest = ⟨true, false⟩) (missing : short s = true) :
    transferBody sink s = .error (unsatisfied s.cfg.pollBound .pollLoop) s := by
  refine Op.bind_error ?_
  unfold runPollLoop
  by_cases bound : s.cfg.pollBound = some 0
  · exact Op.bind_error (sampleStatus_bound_zero .pollLoop bound)
  · have more : pollMore s.env.statusRest s = true := (pollMore_iff _ s).2 ⟨by rw [busy], of_decide_eq_true missing⟩
    have stuck : stalled s = true := by simp [stalled, steady, busy]
    rw [Op.bind_ok (sampleStatus_steady .pollLoop steady bound), Op.bind_ok (peek_apply _ _), pollFuel]
    exact pollLoop_stalled sink _ 1 none more stuck

/-- The epilogue's wait never ends, or stops at its bound. -/
theorem transferBody_stands_epilogue (sink : Sink) {s t : State} {got : Option Word}
    (loop : runPollLoop sink s = .ok got t) (steady : t.env.status = []) (unready : t.env.statusRest.ready = false)
    (missing : short t = true) :
    transferBody sink s = .error (unsatisfied t.cfg.pollBound .epilogue) t := by
  unfold transferBody
  rw [Op.bind_ok loop]
  refine Op.bind_error ?_
  rw [epilogueIfShort, if_pos missing]
  exact Op.bind_error (awaitStatus_steady .epilogue steady unready)

/-- The final wait never ends, or stops at its bound. -/
theorem transferBody_stands_finalWait (sink : Sink) {s t : State} {got : Option Word}
    (loop : runPollLoop sink s = .ok got t) (steady : t.env.status = []) (busy : t.env.statusRest.busy = true)
    (complete : short t = false) :
    transferBody sink s = .error (unsatisfied t.cfg.pollBound .finalWait) t := by
  have noEpilogue : epilogueIfShort t = .ok () t := by
    rw [epilogueIfShort, complete]
    rfl
  unfold transferBody
  rw [Op.bind_ok loop, Op.bind_ok noEpilogue]
  exact Op.bind_error (awaitStatus_steady .finalWait steady (by rw [busy]; rfl))

/-- The state in which a transfer stands that has popped `n` words from a controller with nothing else to answer. -/
def standing (c : Quad) (pagesize blocks : Word) (sink : Sink) (n : Nat) (s : State) : State :=
  transferState c pagesize blocks sink n [] (startCalls s.cfg c pagesize blocks) s

theorem standing_zero (c : Quad) (pagesize blocks : Word) (sink : Sink) {s : State} (steady : s.env.status = []) :
    standing c pagesize blocks sink 0 s = started c pagesize blocks s := by
  rw [standing, ← polled_started, polled_zero]
  exact congrArg (started c pagesize blocks s).setEnv (Env.withStatus_self steady)

theorem short_standing (c : Quad) {pagesize blocks : Word} (sink : Sink) {n : Nat} (s : State)
    (fits : transferLength pagesize blocks < 2 ^ 32) (le : n ≤ transferLength pagesize blocks / 4) :
    short (standing c pagesize blocks sink n s) = decide (4 * n < transferLength pagesize blocks) :=
  short_transferState fits le

/-- A transfer that has popped nothing is short unless its length is zero. -/
theorem short_started (c : Quad) {pagesize blocks : Word} {s : State} (steady : s.env.status = [])
    (fits : transferLength pagesize blocks < 2 ^ 32) :
    short (started c pagesize blocks s) = decide (0 < transferLength pagesize blocks) := by
  rw [← standing_zero c pagesize blocks .discard steady]
  exact short_standing c .discard s fits (Nat.zero_le _)

theorem Env.afterPops_keepsStatus (e : Env) (n : Nat) : (e.afterPops n).status = e.status := by
  induction n with
  | zero => rfl
  | succ n ih => rw [Env.afterPops, Env.afterPop_keepsStatus, ih]

/-- A controller that is busy and ready for ever: the loop pops every word. -/
theorem runPollLoop_eager (c : Quad) {pagesize blocks : Word} (sink : Sink) {s : State} (uncut : s.resetIn = none)
    (steady : s.env.status = []) (eager : s.env.statusRest = ⟨true, true⟩) (unbounded : s.cfg.pollBound = none)
    (fits : transferLength pagesize blocks < 2 ^ 32) :
    ∃ got, runPollLoop sink (started c pagesize blocks s) =
      .ok got (standing c pagesize blocks sink (transferLength pagesize blocks / 4) s) := by
  have length := started_length (c := c) fits s
  have nonePopped : (started c pagesize blocks s).transport.xcnt.val.toNat = 0 := rfl
  have mod := transferLength_mod pagesize blocks
  have sample : sampleStatus .pollLoop 0 (started c pagesize blocks s) = .ok ⟨true, true⟩ (started c pagesize blocks s) :=
    (sampleStatus_steady .pollLoop (s := started c pagesize blocks s) steady (by simp [started, unbounded])).trans
      (by rw [← eager]; rfl)
  have loop := pollLoop_eager sink (pollFuel (started c pagesize blocks s)) ⟨true, true⟩ 1 none
    (started c pagesize blocks s) unbounded uncut eager steady rfl (by omega) (by omega) (by omega)
    (by rw [pollFuel]; omega)
  rw [length, nonePopped, Nat.sub_zero, polled_started] at loop
  exact ⟨_, (Op.bind_ok sample).trans ((Op.bind_ok (peek_apply _ _)).trans loop)⟩

/-- A request whose transfer stops in wait `w` stands there with what it did. -/
theorem standsAt_of_standing {c0 c1 c2 c3 pagesize blocks dest : Word} {dv : BitVec 1} {s : State} {n : Nat} {w : Wait}
    (uncut : s.resetIn = none) (steady : s.env.status = []) (fits : transferLength pagesize blocks < 2 ^ 32)
    (within : 4 * n ≤ transferLength pagesize blocks)
    (body : transferBody (sinkOf dv dest) (started ⟨c0, c1, c2, c3⟩ pagesize blocks s) =
      .error (unsatisfied s.cfg.pollBound w) (standing ⟨c0, c1, c2, c3⟩ pagesize blocks (sinkOf dv dest) n s)) :
    ∃ t, exec (.ctrXfer c0 c1 c2 c3 pagesize blocks dv dest) s = .next t ∧
      StandsAt s t ⟨c0, c1, c2, c3⟩ pagesize blocks dest dv n w := by
  set stood := standing ⟨c0, c1, c2, c3⟩ pagesize blocks (sinkOf dv dest) n s
  have run : exec (.ctrXfer c0 c1 c2 c3 pagesize blocks dv dest) s =
      .next (takeStop (unsatisfied s.cfg.pollBound w) stood) :=
    (xferRequest_fits fits _ _ s).trans (perform_error (Op.bind_error ((transfer_starts _ _ _ _ uncut).trans body)))
  have kept := takeStop_elements (unsatisfied s.cfg.pollBound w) stood
  obtain ⟨trace, env, dev, log⟩ := takeStop_outside (unsatisfied s.cfg.pollBound w) stood
  obtain ⟨hangs, bounded⟩ := takeStop_unsatisfied s.cfg.pollBound w stood
  have oracle : stood.env = s.env.afterPops n :=
    Env.withStatus_self ((Env.afterPops_keepsStatus s.env n).trans steady)
  refine ⟨_, run, congrArg (·.transport) kept, trace, ?_, ?_, env.trans oracle,
    fun unbounded => by rw [hangs unbounded]; exact ⟨rfl, rfl⟩,
    fun finite => by rw [bounded finite]; exact ⟨rfl, rfl⟩,
    congrArg (·.cfg) kept, congrArg (·.cipher) kept, congrArg (·.command) kept, congrArg (·.area) kept,
    congrArg (·.aes) kept, congrArg (·.seq) kept, congrArg (·.inputs) kept, log, dev, congrArg (·.inbox) kept⟩
  · rintro rfl
    exact (congrArg (·.mem) kept).trans (memAfter_sinkOf_zero dest s.mem 0 s.env n)
  · rintro rfl a
    exact (congrArg (fun x => Memory.read x.mem a) kept).trans (read_memAfter dest s.mem s.env (within.trans fits.le) a)

theorem minOneBlock_pos (blocks : Word) : 0 < (minOneBlock blocks).toNat := by
  unfold minOneBlock
  split <;> bv_omega

theorem transferLength_pos {pagesize : Word} (nonempty : pageClass pagesize ≠ 0) (blocks : Word) :
    0 < transferLength pagesize blocks :=
  Nat.mul_pos (Nat.pos_of_ne_zero fun zero => nonempty (BitVec.eq_of_toNat_eq zero)) (minOneBlock_pos blocks)

theorem transferLength_zero {pagesize : Word} (empty : pageClass pagesize = 0) (blocks : Word) :
    transferLength pagesize blocks = 0 := by
  rw [transferLength, empty]
  exact Nat.zero_mul _

/-- Settles O47: each wait by itself, then what a standing transfer keeps. -/
theorem stalledTransferNeverCompletes : Obligations.StalledTransferNeverCompletes := by
  intro c0 c1 c2 c3 pagesize blocks dest dv s uncut steady fits stands
  have noWord {w : Wait} (body : transferBody (sinkOf dv dest) (started ⟨c0, c1, c2, c3⟩ pagesize blocks s) =
      .error (unsatisfied s.cfg.pollBound w) (started ⟨c0, c1, c2, c3⟩ pagesize blocks s)) : stands 0 w :=
    standsAt_of_standing uncut steady fits (Nat.zero_le _) (by rwa [standing_zero _ _ _ _ steady])
  have atStart := short_started ⟨c0, c1, c2, c3⟩ steady fits
  refine ⟨fun busy nonempty => noWord ?_, fun idle nonempty bound => noWord ?_, fun busy empty bound => noWord ?_,
    fun eager unbounded => ?_⟩
  · exact transferBody_stands_pollLoop _ steady busy
      (atStart.trans (decide_eq_true (transferLength_pos nonempty blocks)))
  · have ended : pollMore s.env.statusRest (started ⟨c0, c1, c2, c3⟩ pagesize blocks s) = false := by
      rw [idle]
      rfl
    exact transferBody_stands_epilogue _ (runPollLoop_ends (s := started _ _ _ s) _ steady bound ended) steady
      (congrArg Sample.ready idle) (atStart.trans (decide_eq_true (transferLength_pos nonempty blocks)))
  · have complete : short (started ⟨c0, c1, c2, c3⟩ pagesize blocks s) = false := by
      rw [atStart, transferLength_zero empty]
      rfl
    have ended : pollMore s.env.statusRest (started ⟨c0, c1, c2, c3⟩ pagesize blocks s) = false := by
      rw [pollMore, show decide _ = false from complete, Bool.and_false]
    exact transferBody_stands_finalWait _ (runPollLoop_ends (s := started _ _ _ s) _ steady bound ended) steady busy
      complete
  · obtain ⟨got, loop⟩ := runPollLoop_eager ⟨c0, c1, c2, c3⟩ (sinkOf dv dest) uncut steady eager unbounded fits
    have mod := transferLength_mod pagesize blocks
    refine standsAt_of_standing uncut steady fits (Nat.mul_div_le _ 4) ?_
    refine transferBody_stands_finalWait _ loop rfl ?_ ?_
    · exact congrArg Sample.busy ((Env.afterPops_statusRest s.env _).trans eager)
    · exact (short_standing _ _ s fits le_rfl).trans (decide_eq_false (by omega))

end Sys2Proof.Machine
end

section
/-! PROOFS. What every CTR.XFER keeps, whatever the controller answers and even if a reset cuts it
(45_ctr_transport.md R210): the log, all elements but host memory and XCNT. With it the silent clamping (R212, R284) and
the expected length (R213). -/

namespace Sys2Proof.Machine

/-- The log and all elements but host memory and XCNT: what a transfer keeps once its registers are set. -/
def State.request (s : State) : List LogEntry × Elements :=
  (s.log, { s.elements with mem := [], transport := { s.transport with xcnt := .unwritten 0 } })

/-- From `s` to `t` at most host memory, XCNT and the outside have changed. -/
def SameRequest (s t : State) : Prop := t.request = s.request

theorem sameRequest_refl (s : State) : SameRequest s s := rfl

theorem sameRequest_trans (a b c : State) (h : SameRequest a b) (h' : SameRequest b c) : SameRequest a c :=
  Eq.trans h' h

theorem sameRequest_bind {α β : Type} {m : Op α} {f : α → Op β} (hm : m.Respects SameRequest)
    (hf : ∀ a, (f a).Respects SameRequest) : (m >>= f).Respects SameRequest :=
  Op.respects_bind sameRequest_trans hm hf

theorem sameRequest_effect {f : State → State} (h : ∀ s, SameRequest s (f s)) : (effect f).Respects SameRequest :=
  Op.respects_effect sameRequest_refl sameRequest_trans (fun _ _ _ => rfl) h

theorem sameRequest_call (c : EnvCall) : (call c).Respects SameRequest := sameRequest_effect fun _ => rfl

theorem sameRequest_peek {α : Type} (f : State → α) : (peek f).Respects SameRequest :=
  Op.respects_peek sameRequest_refl f

theorem sameRequest_sampleStatus (w : Wait) (count : Nat) : (sampleStatus w count).Respects SameRequest := by
  intro s
  obtain sampled | stopped := sampleStatus_cases w count s
  · rw [sampled]
    rfl
  · rw [stopped]
    exact Keeps.waited rfl

theorem sameRequest_awaitStatus (w : Wait) (goal : Sample → Bool) : (awaitStatus w goal).Respects SameRequest := by
  intro s
  obtain ⟨left, met | stopped⟩ := awaitStatus_cases w goal s
  · rw [met]
    rfl
  · rw [stopped]
    exact Keeps.waited (t := s.setEnv _) rfl

theorem sameRequest_runStores (steps : List (Memory → Memory)) : (runStores steps).Respects SameRequest := by
  induction steps with
  | nil => exact Op.respects_pure sameRequest_refl ()
  | cons f fs ih => exact sameRequest_bind (sameRequest_effect fun _ => rfl) fun _ => ih

theorem sameRequest_popAndStore (sink : Sink) : (popAndStore sink).Respects SameRequest :=
  sameRequest_bind (fun _ => rfl) fun _ =>
    sameRequest_bind (sameRequest_bind (sameRequest_peek _) fun _ => sameRequest_runStores _) fun _ =>
      sameRequest_bind (fun _ => rfl) fun w => Op.respects_pure sameRequest_refl w

/-- One iteration of the poll loop (R215). -/
theorem pollLoop_step (sink : Sink) (n : Nat) {x : Sample} (idle : Nat) (got : Option Word) {s : State}
    (more : pollMore x s = true) (moving : stalled s = false) :
    pollLoop sink (n + 1) x idle got s = (sampleStatus .pollLoop idle >>= fun y =>
      if y.ready then popAndStore sink >>= fun w => pollLoop sink n y 0 (some w)
      else pollLoop sink n y (idle + 1) got) s := by
  rw [Op.bind_apply]
  simp only [pollLoop]
  rw [if_neg (by simp [more]), if_neg (by simp [moving])]
  cases sampleStatus .pollLoop idle s with
  | error e u => rfl
  | ok y u =>
    cases ready : y.ready with
    | false => simp only [ready, Bool.false_eq_true, if_false]
    | true =>
      simp only [ready, if_true]
      rw [Op.bind_apply]
      cases popAndStore sink u <;> rfl

theorem sameRequest_pollLoop (sink : Sink) : ∀ (n : Nat) (x : Sample) (idle : Nat) (got : Option Word),
    (pollLoop sink n x idle got).Respects SameRequest
  | 0, _, _, _ => fun _ => Keeps.waited rfl
  | n + 1, x, idle, got => by
    intro s
    cases more : pollMore x s with
    | false =>
      rw [pollLoop_done sink n idle got more]
      rfl
    | true =>
      cases stuck : stalled s with
      | true =>
        rw [pollLoop_stalled sink n idle got more stuck]
        exact Keeps.waited rfl
      | false =>
        rw [pollLoop_step sink n idle got more stuck]
        refine sameRequest_bind (sameRequest_sampleStatus _ _) (fun y => ?_) s
        split
        · exact sameRequest_bind (sameRequest_popAndStore sink) fun w => sameRequest_pollLoop sink n y 0 (some w)
        · exact sameRequest_pollLoop sink n y (idle + 1) got

theorem sameRequest_epilogueIfShort : epilogueIfShort.Respects SameRequest := by
  intro s
  unfold epilogueIfShort
  split
  · exact sameRequest_bind (sameRequest_awaitStatus _ _) (fun _ => sameRequest_bind (sameRequest_peek _) fun _ =>
      sameRequest_bind (sameRequest_call _) fun _ => sameRequest_call _) s
  · rfl

/-- What a transfer does once its registers are set. -/
def transferRun (c : Quad) (sink : Sink) : Op (Option Word) := do
  call (.ctrCmdWrite c)
  let r ← peek (·.transport)
  call (.ctrStart r.xcode.val r.xblocks.val)
  transferBody sink

theorem perform_transferOp (c : Quad) (pagesize blocks : Word) (sink : Sink) (s : State) :
    perform (transferOp c pagesize blocks sink) s =
      perform (do let _ ← transferRun c sink; peek fun s => .count s.transport.xcnt.val)
        (s.setTransport (transferRegs s.cfg c pagesize blocks)) := rfl

theorem sameRequest_transferRun (c : Quad) (sink : Sink) : (transferRun c sink).Respects SameRequest :=
  sameRequest_bind (sameRequest_call _) fun _ => sameRequest_bind (sameRequest_peek _) fun _ =>
    sameRequest_bind (sameRequest_call _) fun _ =>
      sameRequest_bind (sameRequest_bind (sameRequest_sampleStatus _ _) fun _ =>
        sameRequest_bind (sameRequest_peek _) fun _ => sameRequest_pollLoop sink _ _ _ _) fun _ =>
      sameRequest_bind sameRequest_epilogueIfShort fun _ => sameRequest_bind (sameRequest_awaitStatus _ _) fun _ =>
        Op.respects_pure sameRequest_refl _

theorem request_takeStop (e : Stop) (t : State) : (takeStop e t).request = t.request := by
  cases e <;> rfl

theorem sameRequest_perform {m : Op Response} (keeps : m.Respects SameRequest) {s t : State}
    (next : perform m s = .next t) : SameRequest s t := by
  obtain ⟨r, u, run, answer⟩ | ⟨e, u, run, answer⟩ := perform_cases m s
  · cases next.symm.trans answer
    exact show u.request = s.request from keeps.ok run
  · cases next.symm.trans answer
    exact (request_takeStop e u).trans (keeps.error run).1

/-- Everything an accepted CTR.XFER leaves but host memory and XCNT: its registers set, the rest as before. -/
theorem xferRequest_sameRequest {c : Quad} {pagesize blocks : Word} {sink : Sink} {s t : State}
    (next : xferRequest c pagesize blocks sink s = .next t) :
    transferLength pagesize blocks < 2 ^ 32 ∧
      SameRequest (s.setTransport (transferRegs s.cfg c pagesize blocks)) t := by
  unfold xferRequest at next
  split at next
  · cases next
  · rename_i fits
    rw [perform_transferOp] at next
    exact ⟨not_le.1 fits,
      sameRequest_perform (sameRequest_bind (sameRequest_transferRun c sink) fun _ => sameRequest_peek _) next⟩

/-- A request is read through PageClass and the minimum of one block alone (R211, R212). -/
theorem xferRequest_congr {pagesize pagesize' blocks blocks' : Word} (page : pageClass pagesize = pageClass pagesize')
    (block : minOneBlock blocks = minOneBlock blocks') (c : Quad) (sink : Sink) (s : State) :
    xferRequest c pagesize blocks sink s = xferRequest c pagesize' blocks' sink s := by
  unfold xferRequest transferOp transfer transferRegs transferLength
  rw [page, block]

/-- Settles O41. -/
theorem clampingIsSilent : Obligations.ClampingIsSilent := by
  intro c0 c1 c2 c3 pagesize blocks dest dv s
  refine ⟨xferRequest_congr rfl rfl _ _ s, fun illegal => xferRequest_congr ?_ rfl _ _ s, fun t next => ?_⟩
  · rw [pageClass_of_not_legalPage illegal]
    rfl
  · obtain ⟨-, same⟩ := xferRequest_sameRequest next
    exact ⟨congrArg (·.1) same, congrArg (·.2.seq) same, congrArg (·.2.aes) same, congrArg (·.2.transport.xpage) same,
      pageClass_of_legalPage, pageClass_of_not_legalPage, congrArg (·.2.transport.xblocks) same⟩

theorem minOneBlock_toNat (blocks : Word) : (minOneBlock blocks).toNat = if blocks = 0 then 1 else blocks.toNat := by
  unfold minOneBlock
  split <;> rfl

theorem pageClass_le (pagesize : Word) : (pageClass pagesize).toNat ≤ 4096 := by
  have legal := legalPage_pageClass pagesize
  unfold legalPage at legal
  omega

/-- Settles O42. -/
theorem overlongTransfersRefused : Obligations.OverlongTransfersRefused := by
  intro c0 c1 c2 c3 pagesize blocks dest dv s length
  have isLength : transferLength pagesize blocks = length := by rw [transferLength, minOneBlock_toNat]
  refine ⟨fun overlong => if_pos (by rwa [isLength]), fun t next => ?_, pageClass_le pagesize, fun few => ?_⟩
  · obtain ⟨fits, same⟩ := xferRequest_sameRequest next
    have xlen : t.transport.xlen = .holding (BitVec.ofNat 32 (transferLength pagesize blocks)) :=
      congrArg (·.2.transport.xlen) same
    have xpage : t.transport.xpage = .holding (pageClass pagesize) := congrArg (·.2.transport.xpage) same
    have xblocks : t.transport.xblocks = .holding (minOneBlock blocks) := congrArg (·.2.transport.xblocks) same
    have value : t.transport.xlen.val.toNat = transferLength pagesize blocks := by
      rw [xlen]
      exact Nat.mod_eq_of_lt fits
    refine ⟨by rw [xlen]; rfl, value.trans isLength, ?_⟩
    rw [value, xpage, xblocks]
    rfl
  · have count : (if blocks = 0 then 1 else blocks.toNat) ≤ 2 ^ 20 - 1 := by split <;> omega
    calc length
      _ ≤ 4096 * (2 ^ 20 - 1) := Nat.mul_le_mul (pageClass_le pagesize) count
      _ < 2 ^ 32 := by decide

end Sys2Proof.Machine
end

section
/-! PROOFS. The sector reads of 46_unlock_sequences.md R250, R251 and the word an XferWord keeps (R267): the words that
a granule's bytes put in SA, and a read driven by hand. -/

namespace Sys2Proof.Machine

/-! An XferWord whose second sample is ready (R267). -/

theorem xferPops_of_ready {e : Env} {b b' : Bool} {xs : List Sample}
    (samples : e.status = ⟨true, b⟩ :: ⟨b', true⟩ :: xs) :
    e.xferPops = 1 := by
  have rest : pops xs b' 0 = 0 := Nat.le_zero.1 (pops_le xs b' 0)
  rw [Env.xferPops, samples, transferPops, pops, if_pos ⟨rfl, one_ne_zero⟩, if_pos rfl, rest]

/-- Settles O48. -/
theorem xferWordReturnsThePoppedWord : Obligations.XferWordReturnsThePoppedWord := by
  intro c b b' xs s prompt samples
  have one := xferPops_of_ready samples
  have answer : s.env.xferAnswer = s.env.nextWord := by rw [Env.xferAnswer, one, if_neg one_ne_zero]
  have run := xferWord_answers c prompt
  rw [answer] at run
  refine ⟨_, run, rfl, ?_, ?_, ?_⟩
  · rw [afterXferWord_env, Env.afterXfer, one, if_neg one_ne_zero]
    rfl
  · rw [afterXferWord_transport, one]
    rfl
  · rw [afterXferWord_trace, afterXferWord_transport, xferCalls, one]
    rfl

/-! The words of a granule (R251). -/

theorem wordAt_eq_byteWord (bytes : List Byte) (j : Nat) : wordAt bytes j = byteWord bytes j := rfl

/-- The words of a granule stand in SA in the order of their bytes; the rest of SA is as before. -/
theorem areaWord_fillArea (bytes : List Byte) {i : Nat} (hi : i < 0x1000) :
    ∀ (n start j : Nat) (a : Area), start + n ≤ 0x1000 →
      areaWord (fillArea n start j bytes a) i =
        if start ≤ i ∧ i < start + n then .holding (byteWord bytes (j + (i - start))) else areaWord a i := by
  intro n
  induction n with
  | zero =>
    intro start j a _
    rw [if_neg (by omega)]
    rfl
  | succ n ih =>
    intro start j a fits
    rw [fillArea, ih _ _ _ (by omega), areaWord_areaSet _ _ (by omega) hi, wordAt_eq_byteWord]
    rcases Nat.lt_trichotomy i start with before | rfl | after
    · rw [if_neg (by omega), if_neg (by omega), if_neg (by omega)]
    · rw [if_neg (by omega), if_pos rfl, if_pos (by omega), Nat.sub_self, Nat.add_zero]
    · have next : j + 1 + (i - (start + 1)) = j + (i - start) := by omega
      rw [next, if_neg (show start ≠ i by omega)]
      exact if_congr (by omega) rfl rfl

/-! A read driven by hand (log 15). -/

/-- A granule's offset leaves room for its words in SA. -/
theorem granule_fits {small : Bool} {off : Nat} (inside : off < 0x4000) (aligned : off % granule small = 0) :
    off / 4 + granule small / 4 ≤ 0x1000 := by
  cases small with
  | false =>
    have aligned : off % 0x200 = 0 := aligned
    show off / 4 + 0x200 / 4 ≤ 0x1000
    omega
  | true =>
    have aligned : off % 0x1000 = 0 := aligned
    show off / 4 + 0x1000 / 4 ≤ 0x1000
    omega

/-- SA after a sector read driven by hand, word by word. -/
theorem areaWord_areaAfterSector (cfg : Config) (small : Bool) (a : Word) (v : List Byte) (area : Area) {i : Nat}
    (hi : i < 0x1000) :
    areaWord (areaAfterSector cfg (granule small) a v area) i =
      if a ≠ cfg.validationOffset ∧ (a - cfg.saOffset).toNat < 0x4000 ∧ (a - cfg.saOffset).toNat % granule small = 0 ∧
          (a - cfg.saOffset).toNat / 4 ≤ i ∧ i < (a - cfg.saOffset).toNat / 4 + granule small / 4 then
        .holding (byteWord v (i - (a - cfg.saOffset).toNat / 4))
      else areaWord area i := by
  unfold areaAfterSector areaAfterGranule granuleOffset
  by_cases validation : a = cfg.validationOffset
  · rw [if_pos validation, if_neg fun h => h.1 validation]
  · by_cases start : (a - cfg.saOffset).toNat < 0x4000 ∧ (a - cfg.saOffset).toNat % granule small = 0
    · obtain ⟨inside, aligned⟩ := start
      rw [if_neg validation, if_pos ⟨inside, aligned⟩]
      refine (areaWord_fillArea v hi _ _ 0 area (granule_fits inside aligned)).trans ?_
      rw [Nat.zero_add]
      exact if_congr (by tauto) rfl rfl
    · rw [if_neg validation, if_neg start, if_neg fun h => start ⟨h.2.1, h.2.2.1⟩]

/-- The state after a sector read driven by hand that brought `v`, without its response. -/
def sectorKept (a : Word) (v : List Byte) (s : State) : State :=
  ((afterSend (readFrame s.cfg a) (sectorLength a s) s).setLog (logAfterSector s.cfg a v s.log)).setArea
    (areaAfterSector s.cfg (granule s.seq.smallgeo) a v s.area)

/-- A sector read whose own answer comes, whatever the later ones do. -/
theorem sectorRead_answered (a : Word) (n : Nat) {s : State} (uncut : s.resetIn = none)
    (unbounded : s.cfg.pollBound = none) (answers : s.env.nextReply.polls ≠ none) :
    sectorRead a n s = .ok (s.env.replyAt 0 n) (afterSend (readFrame s.cfg a) n s) := by
  unfold sectorRead
  rw [Op.bind_ok (peek_apply _ _)]
  exact ntrSend_answered _ n uncut unbounded answers

theorem dataRead_answered (a : Word) {s : State} (uncut : s.resetIn = none) (unbounded : s.cfg.pollBound = none)
    (answers : s.env.nextReply.polls ≠ none) :
    dataRead a s =
      .ok (.bytes (s.env.replyAt 0 (sectorLength a s))) (sectorKept a (s.env.replyAt 0 (sectorLength a s)) s) := by
  unfold dataRead
  rw [Op.bind_ok (peek_apply _ _), Op.bind_ok (sectorRead_answered a _ uncut unbounded answers),
    Op.bind_ok (change_apply _ _), Op.bind_ok (change_apply _ _)]
  rfl

/-- ReadFrame's default is the table's frame when OP_DATA_READ is (R250, D34). -/
theorem readFrame_default {cfg : Config} (default : cfg.readFrameFn = .gkDefault) (opcode : cfg.opDataRead = 0xB7)
    (a : Word) : readFrame cfg a = 0xB7#8 ++ a ++ 0#24 := by
  rw [readFrame, default, applyOpen, opcode]
  rfl

/-- Settles O34. -/
theorem dataReadFrameReadsSectors : Obligations.DataReadFrameReadsSectors := by
  intro a s default opcode unbounded uncut answers
  have frame := readFrame_default default opcode a
  have run : exec (.frameDataRead a) s = perform (dataRead a) s := if_pos frame
  rw [run, perform_ok (dataRead_answered a uncut unbounded answers)]
  refine ⟨_, rfl, rfl, replyBytes_length .., ?_, rfl, fun i hi => ?_, rfl, rfl, rfl, rfl, rfl, rfl, rfl, rfl, rfl,
    rfl, rfl⟩
  · show s.trace ++ [.ntrSend (readFrame s.cfg a) _] = _
    rw [frame]
    rfl
  · exact areaWord_areaAfterSector s.cfg s.seq.smallgeo a _ s.area hi

end Sys2Proof.Machine
end

section
/-! PROOFS. The steps of NTR.UNLOCK after the activate-key1 frame (46_unlock_sequences.md R245 to R251): what each
answers when the cartridge does, and the granules that fill SA. -/

namespace Sys2Proof.Machine

/-! The environment's answers, counted. -/

theorem uncut_of_promptReplies {s : State} (h : s.promptReplies) : s.resetIn = none := h.2.1

theorem Env.afterReplies_add (e : Env) (m n : Nat) : (e.afterReplies m).afterReplies n = e.afterReplies (m + n) := by
  induction n with
  | zero => rfl
  | succ n ih => rw [Env.afterReplies, ih]; rfl

theorem Env.replyAt_afterReplies (e : Env) (m k n : Nat) : (e.afterReplies m).replyAt k n = e.replyAt (m + k) n := by
  rw [Env.replyAt, Env.afterReplies_add, Env.replyAt]

theorem Env.afterReply_afterReplies (e : Env) (n : Nat) : e.afterReply.afterReplies n = e.afterReplies (n + 1) := by
  rw [Nat.add_comm, ← Env.afterReplies_add]
  rfl

theorem Env.replyAt_afterReply (e : Env) (k n : Nat) : e.afterReply.replyAt k n = e.replyAt (k + 1) n := by
  rw [Nat.add_comm, ← Env.replyAt_afterReplies]
  rfl

/-! The granules (R251). -/

/-- The state after one granule. -/
def granuleRead (g off : Nat) (s : State) : State :=
  (afterSend (readFrame s.cfg (s.cfg.saOffset + BitVec.ofNat 32 off)) g s).setArea
    (fillArea (g / 4) (off / 4) 0 (s.env.replyAt 0 g) s.area)

theorem readGranule_answers (g off : Nat) {s : State} (prompt : s.promptReplies) :
    readGranule g off s = .ok () (granuleRead g off s) := by
  unfold readGranule
  rw [Op.bind_ok (peek_apply _ _), Op.bind_ok (sectorRead_answers _ g prompt)]
  rfl

theorem promptReplies_granuleRead {g off : Nat} {s : State} (h : s.promptReplies) :
    (granuleRead g off s).promptReplies :=
  promptReplies_after h (readFrame s.cfg (s.cfg.saOffset + BitVec.ofNat 32 off)) g

/-- SA after `n` granules from offset `off` up, each filled from its own answer. -/
def granulesArea (g : Nat) : Nat → Nat → Env → Area → Area
  | 0, _, _, a => a
  | n + 1, off, e, a => granulesArea g n (off + g) e.afterReply (fillArea (g / 4) (off / 4) 0 (e.replyAt 0 g) a)

/-- The state after `n` granules from offset `off` up. -/
def granulesRead (g n off : Nat) (s : State) : State :=
  ((s.setTrace (s.trace ++ granuleCalls s.cfg g n off)).setEnv (s.env.afterReplies n)).setArea
    (granulesArea g n off s.env s.area)

theorem granulesRead_granuleRead (g n off : Nat) (s : State) :
    granulesRead g n (off + g) (granuleRead g off s) = granulesRead g (n + 1) off s := by
  have calls : (granuleRead g off s).trace ++ granuleCalls s.cfg g n (off + g) =
      s.trace ++ granuleCalls s.cfg g (n + 1) off := List.append_assoc ..
  have env : (granuleRead g off s).env.afterReplies n = s.env.afterReplies (n + 1) := s.env.afterReply_afterReplies n
  unfold granulesRead
  rw [env, show (granuleRead g off s).cfg = s.cfg from rfl, calls]
  rfl

theorem readGranules_answers (g n off : Nat) {s : State} (prompt : s.promptReplies) :
    readGranules g n off s = .ok () (granulesRead g n off s) := by
  induction n generalizing off s with
  | zero =>
    rw [granulesRead, granuleCalls, List.append_nil]
    rfl
  | succ n ih =>
    rw [readGranules, Op.bind_ok (readGranule_answers g off prompt), ih _ (promptReplies_granuleRead prompt),
      granulesRead_granuleRead]

/-- The words of `n` granules of `m` words each, from word `w` of SA up: word `j` of granule `k` is that of answer `k`.
-/
theorem areaWord_granulesArea {m i : Nat} (words : 0 < m) (hi : i < 0x1000) (n w : Nat) (e : Env) (a : Area)
    (fits : w + n * m ≤ 0x1000) :
    areaWord (granulesArea (4 * m) n (4 * w) e a) i =
      if w ≤ i ∧ i < w + n * m then .holding (byteWord (e.replyAt ((i - w) / m) (4 * m)) ((i - w) % m))
      else areaWord a i := by
  induction n generalizing w e a with
  | zero => rw [granulesArea, if_neg (by omega)]
  | succ n ih =>
    have more : (n + 1) * m = n * m + m := Nat.succ_mul n m
    have quarter (k : Nat) : 4 * k / 4 = k := Nat.mul_div_cancel_left k (by decide)
    rw [granulesArea, ← Nat.mul_add, ih (w + m) _ _ (by omega), quarter, quarter,
      areaWord_fillArea _ hi _ _ _ _ (by omega), Nat.zero_add]
    rcases Nat.lt_or_ge i (w + m) with inFirst | beyond
    · rw [if_neg (by omega)]
      rcases Nat.lt_or_ge i w with before | inside
      · rw [if_neg (by omega), if_neg (by omega)]
      · have first : i - w < m := by omega
        rw [if_pos ⟨inside, inFirst⟩, if_pos (by omega), Nat.div_eq_of_lt first, Nat.mod_eq_of_lt first]
    · have shift : i - w = i - (w + m) + m := by omega
      rw [Env.replyAt_afterReply, shift, Nat.add_div_right _ words, Nat.add_mod_right,
        if_neg (show ¬ (w ≤ i ∧ i < w + m) by omega)]
      exact if_congr (by omega) rfl rfl

/-! A build that does not count (R167). -/

theorem countAfter_uncounted {cfg : Config} {op : BitVec 8} (onlyReads : cfg.cntIncAll = false)
    (other : op ≠ cfg.opSecureRead) (cnt : BitVec 20) : countAfter cfg op cnt = cnt :=
  if_neg (by simp [onlyReads, other])

/-- The frame registers after a build. -/
def framed (op : BitVec 8) (s : State) : State :=
  s.setCommand { s.command with
    pframe := .holding (specFrame s op 0)
    eframe := .holding (specSeal s.cipher.sched.t (specFrame s op 0)) }

theorem commandBuilt_eq_framed {op : BitVec 8} {s : State} (onlyReads : s.cfg.cntIncAll = false)
    (other : op ≠ s.cfg.opSecureRead) : commandBuilt op 0 s = framed op s := by
  rw [commandBuilt, countAfter_uncounted onlyReads other]
  rfl

/-- A frame is a matter of the parameters and the session. -/
theorem specFrame_congr {s t : State} (cfg : t.cfg = s.cfg) (ses : t.command.ses = s.command.ses) (op : BitVec 8)
    (blk : BitVec 16) : specFrame t op blk = specFrame s op blk := by
  rw [specFrame, specFrame, cfg, ses]

/-! The steps after the activate-secure frame. -/

/-- The calibrated delay of large geometry (R245, R246). -/
def pauseCalls (s : State) : List EnvCall :=
  if s.inputs.idword.val.getLsbD 31 then [.delay (s.inputs.timing.val * 763)] else []

/-- The state after that delay. -/
def paused (s : State) : State := s.setTrace (s.trace ++ pauseCalls s)

theorem onlyIf_calibrated {s : State} (timing : s.inputs.timing.written = true) (uncut : s.resetIn = none) :
    onlyIf (s.inputs.idword.val.getLsbD 31) calibrated s = .ok () (paused s) := by
  unfold paused pauseCalls
  cases s.inputs.idword.val.getLsbD 31 with
  | false =>
    rw [if_neg (by decide), List.append_nil]
    rfl
  | true =>
    unfold calibrated
    rw [onlyIf_true, Op.bind_ok (readReg_written (f := (·.inputs.timing)) _ timing), delay_apply _ uncut]
    rfl

/-- The state after StepSeed (R247). -/
def seedWritten (s : State) : State :=
  (s.setTrace (s.trace ++
    [.seedWrite (seedX s.cfg (seedByte s) s.command.ses.q0 s.command.ses.q1) (seedY s.cfg)])).setDev
    { s.dev with
      seedX := seedX s.cfg (seedByte s) s.command.ses.q0 s.command.ses.q1
      seedY := seedY s.cfg
      key2On := true }

theorem stepSeed_answers {s : State} (seedidx : s.inputs.seedidx.written = true) (uncut : s.resetIn = none) :
    stepSeed s = .ok () (seedWritten s) := by
  unfold stepSeed seedWrite
  rw [Op.bind_ok (readReg_written (f := (·.inputs.seedidx)) _ seedidx), Op.bind_ok (peek_apply _ _),
    Op.bind_ok (peek_apply _ _), effect_apply uncut]
  rfl

/-- The state after the comparison of the chip id (R248). -/
def chipidKept (got : Word) (s : State) : State :=
  (s.setSeq { s.seq with
    secid := .holding got
    idMismatch := s.seq.idMismatch || got != s.inputs.idword.val }).setLog
    (s.log ++ if got = s.inputs.idword.val then [] else [.mismatchChipid s.inputs.idword.val got])

theorem compareChipid_apply (got : Word) (s : State) :
    compareChipid got s.inputs.idword.val s = .ok () (chipidKept got s) := by
  unfold compareChipid chipidKept
  rw [Op.bind_ok (change_apply _ _)]
  by_cases same : got = s.inputs.idword.val
  · rw [if_pos same, List.append_nil, same, bne_self_eq_false, onlyIf_false]
    simp only [idMismatchAfter, bne_self_eq_false]
    rfl
  · rw [if_neg same, bne_iff_ne.2 same, onlyIf_true]
    simp only [idMismatchAfter, bne_iff_ne.2 same]
    rfl

/-- The state in which the frame built last has been sent. -/
def eframeSent (n : Nat) (s : State) : State := afterSend s.command.eframe.val n s

/-- The state after StepVerify (R248). -/
def verified (s : State) : State :=
  chipidKept (byteWord (s.env.replyAt 0 4) 0) (eframeSent 4 (paused (framed s.cfg.opSecureChipid s)))

theorem stepVerify_answers {s : State} (build : s.canBuild) (onlyReads : s.cfg.cntIncAll = false)
    (other : s.cfg.opSecureChipid ≠ s.cfg.opSecureRead) (prompt : s.promptReplies)
    (hid : s.inputs.idword.written = true) (timing : s.inputs.timing.written = true) :
    stepVerify s = .ok () (verified s) := by
  have id : readIdword (framed s.cfg.opSecureChipid s) = .ok s.inputs.idword.val (framed s.cfg.opSecureChipid s) :=
    readReg_written (f := (·.inputs.idword)) _ hid
  have pause : onlyIf (largeGeometry s.inputs.idword.val) calibrated (framed s.cfg.opSecureChipid s) =
      .ok () (paused (framed s.cfg.opSecureChipid s)) :=
    onlyIf_calibrated (s := framed s.cfg.opSecureChipid s) timing (uncut_of_promptReplies prompt)
  unfold stepVerify
  rw [Op.bind_ok (peek_apply _ _), Op.bind_ok (cmdBuild_apply _ 0 build), commandBuilt_eq_framed onlyReads other,
    Op.bind_ok id, Op.bind_ok pause,
    Op.bind_ok (sendEframe_answers 4 (s := paused (framed s.cfg.opSecureChipid s)) prompt)]
  exact compareChipid_apply _ (eframeSent 4 (paused (framed s.cfg.opSecureChipid s)))

/-- The state after StepDataMode (R249). -/
def dataModeSent (s : State) : State := eframeSent 0 (framed s.cfg.opDataMode s)

theorem stepDataMode_answers {s : State} (build : s.canBuild) (onlyReads : s.cfg.cntIncAll = false)
    (other : s.cfg.opDataMode ≠ s.cfg.opSecureRead) (prompt : s.promptReplies) :
    stepDataMode s = .ok () (dataModeSent s) := by
  unfold stepDataMode
  rw [Op.bind_ok (peek_apply _ _), Op.bind_ok (cmdBuild_apply _ 0 build), commandBuilt_eq_framed onlyReads other,
    Op.bind_ok (sendEframe_answers 0 (s := framed s.cfg.opDataMode s) prompt)]
  rfl

/-- The state after StepValidationRead (R250). -/
def validated (s : State) : State :=
  (afterSend (readFrame s.cfg s.cfg.validationOffset) s.cfg.validationLen s).setLog
    (s.log ++ [.validation (s.env.replyAt 0 s.cfg.validationLen)])

theorem stepValidationRead_answers {s : State} (prompt : s.promptReplies) :
    stepValidationRead s = .ok () (validated s) := by
  unfold stepValidationRead
  rw [Op.bind_ok (peek_apply _ _), Op.bind_ok (peek_apply _ _), Op.bind_ok (sectorRead_answers _ _ prompt)]
  rfl

/-- The state after StepBulkRead (R251). -/
def bulkRead (s : State) : State := granulesRead (granule s.seq.smallgeo) (0x4000 / granule s.seq.smallgeo) 0 s

theorem stepBulkRead_answers {s : State} (prompt : s.promptReplies) : stepBulkRead s = .ok () (bulkRead s) := by
  unfold stepBulkRead
  rw [Op.bind_ok (peek_apply _ _), readGranules_answers _ _ _ prompt]
  rfl

end Sys2Proof.Machine
end

section
/-! PROOFS. NTR.UNLOCK from Raw to Reading (46_unlock_sequences.md R240): its states in one normal form, each step as a
move within it, and what the whole sequence leaves. -/

namespace Sys2Proof.Machine

/-- The granule of a geometry bit (R242, R251). -/
theorem granule_not (large : Bool) : granule (!large) = if large then 0x200 else 0x1000 := by
  cases large <;> rfl

/-- What NTR.UNLOCK needs to reach Reading: a cartridge that answers, its inputs written (R240, R242), and a counter
that the sequence's own builds leave (R167). -/
structure State.Unlockable (s : State) : Prop where
  prompt : s.promptReplies
  gamecode : s.inputs.gamecode.written = true
  timing : s.inputs.timing.written = true
  seedidx : s.inputs.seedidx.written = true
  idword : s.inputs.idword.written = true
  onlyReads : s.cfg.cntIncAll = false
  activateSec : s.cfg.opActivateSec ≠ s.cfg.opSecureRead
  secureChipid : s.cfg.opSecureChipid ≠ s.cfg.opSecureRead
  dataMode : s.cfg.opDataMode ≠ s.cfg.opSecureRead

/-! The sequence's own states: what has moved since Setup. -/

/-- The sealed frame of an opcode in the sequence, whatever step builds it: the session and the table are Setup's. -/
def sequenceFrame (base : Table) (s : State) (op : BitVec 8) : Frame :=
  specSeal (specSchedule s.cfg base s.inputs.gamecode.val 0).t (specFrame (setUp base s) op 0)

/-- The sequence started in `s`, with the frame of `op` built last, `k` answers taken, and the sequencing state, the
calls, the log, the devices and SA as they have become. All else is as Setup left it. -/
def inSequence (base : Table) (s : State) (op : BitVec 8) (k : Nat) (seq : Sequencer) (trace : List EnvCall)
    (log : List LogEntry) (dev : Devices) (area : Area) : State :=
  { s with
    cipher := { s.cipher with sched := specSchedule s.cfg base s.inputs.gamecode.val 0, tvalid := true }
    command := ⟨s.env.session, true, .holding (specFrame (setUp base s) op 0), .holding (sequenceFrame base s op)⟩
    env := (s.env.afterDraws 7).afterReplies k
    seq, trace, log, dev, area }

/-- Answers that have come leave a cartridge that answers. -/
theorem promptReplies_setEnv_afterReplies {s : State} (h : s.promptReplies) (n : Nat) :
    (s.setEnv (s.env.afterReplies n)).promptReplies := by
  induction n with
  | zero => exact h
  | succ n ih => exact promptReplies_after ih 0 0

section
variable (base : Table) (s : State) (op : BitVec 8) (k : Nat) (seq : Sequencer) (trace : List EnvCall)
  (log : List LogEntry) (dev : Devices) (area : Area)

theorem canBuild_inSequence : (inSequence base s op k seq trace log dev area).canBuild := ⟨rfl, rfl⟩

theorem specFrame_inSequence (op' : BitVec 8) :
    specFrame (inSequence base s op k seq trace log dev area) op' 0 = specFrame (setUp base s) op' 0 :=
  specFrame_congr rfl rfl op' 0

theorem framed_inSequence (op' : BitVec 8) :
    framed op' (inSequence base s op k seq trace log dev area) = inSequence base s op' k seq trace log dev area := by
  rw [framed, specFrame_inSequence]
  rfl

theorem eframeSent_inSequence (n : Nat) :
    eframeSent n (inSequence base s op k seq trace log dev area) =
      inSequence base s op (k + 1) seq (trace ++ [EnvCall.ntrSend (sequenceFrame base s op) n]) log dev area := rfl

theorem replyAt_inSequence (n : Nat) :
    (inSequence base s op k seq trace log dev area).env.replyAt 0 n = (s.env.afterDraws 7).replyAt k n :=
  Env.replyAt_afterReplies _ k 0 n

theorem granulesRead_inSequence (g n : Nat) :
    granulesRead g n 0 (inSequence base s op k seq trace log dev area) =
      inSequence base s op (k + n) seq (trace ++ granuleCalls s.cfg g n 0) log dev
        (granulesArea g n 0 ((s.env.afterDraws 7).afterReplies k) area) := by
  have env : (inSequence base s op k seq trace log dev area).env.afterReplies n =
      (s.env.afterDraws 7).afterReplies (k + n) := Env.afterReplies_add _ k n
  rw [granulesRead, env]
  rfl

theorem delayedResent_inSequence :
    delayedResent (inSequence base s op k seq trace log dev area) =
      inSequence base s op (k + 1) seq
        (trace ++ [EnvCall.delay (s.inputs.timing.val * 763)] ++ [EnvCall.ntrSend (sequenceFrame base s op) 0])
        log dev area := rfl

theorem putPhase_inSequence (p : Phase) :
    putPhase p (inSequence base s op k seq trace log dev area) =
      .ok () (inSequence base s op k { seq with phase := p } trace log dev area) := rfl

variable {s} (ready : s.Unlockable)
include ready

theorem promptReplies_inSequence : (inSequence base s op k seq trace log dev area).promptReplies :=
  promptReplies_setEnv_afterReplies
    (promptReplies_of_draws (t := s.setEnv (s.env.afterDraws 7)) ready.prompt rfl rfl rfl) k

/-- StepSeed of the sequence (R247). -/
theorem stepSeed_inSequence :
    stepSeed (inSequence base s op k seq trace log dev area) =
      .ok () (inSequence base s op k seq
        (trace ++ [EnvCall.seedWrite (seedX s.cfg (seedByte s) s.env.session.q0 s.env.session.q1) (seedY s.cfg)]) log
        { dev with
          seedX := seedX s.cfg (seedByte s) s.env.session.q0 s.env.session.q1
          seedY := seedY s.cfg
          key2On := true } area) :=
  stepSeed_answers (s := inSequence base s op k seq trace log dev area) ready.seedidx
    (uncut_of_promptReplies (s := s) ready.prompt)

/-- StepVerify of the sequence (R248). -/
theorem stepVerify_inSequence :
    let got := byteWord ((s.env.afterDraws 7).replyAt k 4) 0
    stepVerify (inSequence base s op k seq trace log dev area) =
      .ok () (inSequence base s s.cfg.opSecureChipid (k + 1)
        { seq with secid := .holding got, idMismatch := seq.idMismatch || got != s.inputs.idword.val }
        (trace ++ pauseCalls s ++ [EnvCall.ntrSend (sequenceFrame base s s.cfg.opSecureChipid) 4])
        (log ++ if got = s.inputs.idword.val then [] else [.mismatchChipid s.inputs.idword.val got]) dev area) := by
  intro got
  have run := stepVerify_answers (canBuild_inSequence base s op k seq trace log dev area) ready.onlyReads
    ready.secureChipid (promptReplies_inSequence (ready := ready) ..) ready.idword ready.timing
  rw [verified, replyAt_inSequence, framed_inSequence] at run
  exact run

/-- StepDataMode of the sequence (R249). -/
theorem stepDataMode_inSequence :
    stepDataMode (inSequence base s op k seq trace log dev area) =
      .ok () (inSequence base s s.cfg.opDataMode (k + 1) seq
        (trace ++ [EnvCall.ntrSend (sequenceFrame base s s.cfg.opDataMode) 0]) log dev area) := by
  have run := stepDataMode_answers (canBuild_inSequence base s op k seq trace log dev area) ready.onlyReads
    ready.dataMode (promptReplies_inSequence (ready := ready) ..)
  rw [dataModeSent, framed_inSequence] at run
  exact run

/-- StepValidationRead of the sequence (R250). -/
theorem stepValidationRead_inSequence :
    stepValidationRead (inSequence base s op k seq trace log dev area) =
      .ok () (inSequence base s op (k + 1) seq
        (trace ++ [EnvCall.ntrSend (readFrame s.cfg s.cfg.validationOffset) s.cfg.validationLen])
        (log ++ [.validation ((s.env.afterDraws 7).replyAt k s.cfg.validationLen)]) dev area) := by
  rw [stepValidationRead_answers (promptReplies_inSequence (ready := ready) ..), validated, replyAt_inSequence]
  rfl

/-- The bulk read of the sequence (R251). -/
theorem stepBulkRead_inSequence {g : Nat} (geometry : granule seq.smallgeo = g) :
    stepBulkRead (inSequence base s op k seq trace log dev area) =
      .ok () (inSequence base s op (k + 0x4000 / g) seq (trace ++ granuleCalls s.cfg g (0x4000 / g) 0) log dev
        (granulesArea g (0x4000 / g) 0 ((s.env.afterDraws 7).afterReplies k) area)) := by
  subst geometry
  rw [stepBulkRead_answers (promptReplies_inSequence (ready := ready) ..)]
  exact congrArg (EStateM.Result.ok ()) (granulesRead_inSequence ..)

end

/-! The activate-secure frame, sent twice in large geometry (R245). -/

/-- The resend of large geometry (R245). -/
def againCalls (base : Table) (s : State) : List EnvCall :=
  if s.inputs.idword.val.getLsbD 31 then [EnvCall.ntrSend (sequenceFrame base s s.cfg.opActivateSec) 0] else []

/-- The answers taken when StepActivateSecure ends. -/
def activationReplies (s : State) : Nat := if s.inputs.idword.val.getLsbD 31 then 3 else 2

theorem sequenceSecured_eq_inSequence (gen : BitVec 1) (base : Table) {s : State} (onlyReads : s.cfg.cntIncAll = false)
    (other : s.cfg.opActivateSec ≠ s.cfg.opSecureRead) :
    sequenceSecured gen base s =
      inSequence base s s.cfg.opActivateSec 2
        { s.seq with phase := .keyedRandom, smallgeo := !s.inputs.idword.val.getLsbD 31 }
        (s.trace ++ [EnvCall.ntrSend (specActKey1 (setUp base s) gen) 0,
          EnvCall.ntrSend (sequenceFrame base s s.cfg.opActivateSec) 0]) s.log s.dev s.area := by
  have built : framed s.cfg.opActivateSec (phased .keyedRandom (key1Sent gen (setUp base s))) =
      inSequence base s s.cfg.opActivateSec 1
        { s.seq with phase := .keyedRandom, smallgeo := !s.inputs.idword.val.getLsbD 31 }
        (s.trace ++ [EnvCall.ntrSend (specActKey1 (setUp base s) gen) 0]) s.log s.dev s.area := by
    have frame : specFrame (phased .keyedRandom (key1Sent gen (setUp base s))) s.cfg.opActivateSec 0 =
        specFrame (setUp base s) s.cfg.opActivateSec 0 := specFrame_congr rfl rfl _ _
    rw [framed, frame]
    rfl
  have sent : sequenceSecured gen base s =
      eframeSent 0 (framed s.cfg.opActivateSec (phased .keyedRandom (key1Sent gen (setUp base s)))) :=
    congrArg (eframeSent 0) (commandBuilt_eq_framed onlyReads other)
  rw [sent, built, eframeSent_inSequence, List.append_assoc]
  rfl

theorem sequenceActivated_eq_inSequence (gen : BitVec 1) (base : Table) {s : State}
    (onlyReads : s.cfg.cntIncAll = false) (other : s.cfg.opActivateSec ≠ s.cfg.opSecureRead) :
    sequenceActivated gen base s =
      inSequence base s s.cfg.opActivateSec (activationReplies s)
        { s.seq with phase := .keyedRandom, smallgeo := !s.inputs.idword.val.getLsbD 31 }
        (s.trace ++ [EnvCall.ntrSend (specActKey1 (setUp base s) gen) 0,
          EnvCall.ntrSend (sequenceFrame base s s.cfg.opActivateSec) 0] ++ pauseCalls s ++ againCalls base s)
        s.log s.dev s.area := by
  rw [sequenceActivated, sequenceSecured_eq_inSequence gen base onlyReads other, activationReplies, pauseCalls,
    againCalls]
  cases s.inputs.idword.val.getLsbD 31 with
  | false =>
    simp only [Bool.false_eq_true, if_false, List.append_nil]
  | true =>
    simp only [if_true]
    exact delayedResent_inSequence ..

/-! The whole sequence. -/

theorem sequence_stepActivateSecure_answers (gen : BitVec 1) (base : Table) {s : State} (ready : s.Unlockable) :
    stepActivateSecure (phased .keyedRandom (key1Sent gen (setUp base s))) = .ok () (sequenceActivated gen base s) := by
  rw [sequence_stepActivateSecure ready.idword ready.prompt, sequenceActivated]
  split
  case isTrue large =>
    rw [large, onlyIf_true]
    exact delayAndResend_answers ready.timing (promptReplies_sequenceSecured ready.prompt)
  case isFalse small => rw [Bool.eq_false_iff.2 small, onlyIf_false]

/-- The word of the answer to the chip-id frame (R248). -/
def chipidAnswer (s : State) : Word := byteWord ((s.env.afterDraws 7).replyAt (activationReplies s) 4) 0

/-- The granule of the sequence's geometry (R251). -/
def sequenceGranule (s : State) : Nat := if s.inputs.idword.val.getLsbD 31 then 0x200 else 0x1000

/-- The state after NTR.UNLOCK without its response. -/
def unlocked (gen : BitVec 1) (base : Table) (s : State) : State :=
  inSequence base s s.cfg.opDataMode (activationReplies s + 3 + 0x4000 / sequenceGranule s)
    { s.seq with
      phase := .reading
      secid := .holding (chipidAnswer s)
      smallgeo := !s.inputs.idword.val.getLsbD 31
      idMismatch := s.seq.idMismatch || chipidAnswer s != s.inputs.idword.val }
    (s.trace ++ [EnvCall.ntrSend (specActKey1 (setUp base s) gen) 0,
        EnvCall.ntrSend (sequenceFrame base s s.cfg.opActivateSec) 0] ++ pauseCalls s ++ againCalls base s ++
      [EnvCall.seedWrite (seedX s.cfg (seedByte s) s.env.session.q0 s.env.session.q1) (seedY s.cfg)] ++ pauseCalls s ++
      [EnvCall.ntrSend (sequenceFrame base s s.cfg.opSecureChipid) 4] ++
      [EnvCall.ntrSend (sequenceFrame base s s.cfg.opDataMode) 0] ++
      [EnvCall.ntrSend (readFrame s.cfg s.cfg.validationOffset) s.cfg.validationLen] ++
      granuleCalls s.cfg (sequenceGranule s) (0x4000 / sequenceGranule s) 0)
    (s.log ++ (if chipidAnswer s = s.inputs.idword.val then [] else
        [.mismatchChipid s.inputs.idword.val (chipidAnswer s)]) ++
      [.validation ((s.env.afterDraws 7).replyAt (activationReplies s + 2) s.cfg.validationLen)])
    { s.dev with
      seedX := seedX s.cfg (seedByte s) s.env.session.q0 s.env.session.q1
      seedY := seedY s.cfg
      key2On := true }
    (granulesArea (sequenceGranule s) (0x4000 / sequenceGranule s) 0
      ((s.env.afterDraws 7).afterReplies (activationReplies s + 3)) s.area)

theorem ntrUnlock_answers (gen : BitVec 1) (base : Table) {s : State} (ready : s.Unlockable) :
    ntrUnlock gen base s = .ok () (unlocked gen base s) := by
  rw [ntrUnlock_key1_sent ready.idword ready.gamecode ready.prompt, afterKey1, Op.bind_ok (putPhase_apply _ _),
    Op.bind_ok (sequence_stepActivateSecure_answers gen base ready),
    sequenceActivated_eq_inSequence gen base ready.onlyReads ready.activateSec,
    Op.bind_ok (putPhase_inSequence ..), Op.bind_ok (stepSeed_inSequence (ready := ready) ..),
    Op.bind_ok (stepVerify_inSequence (ready := ready) ..), Op.bind_ok (stepDataMode_inSequence (ready := ready) ..),
    Op.bind_ok (putPhase_inSequence ..), Op.bind_ok (putPhase_inSequence ..),
    Op.bind_ok (stepValidationRead_inSequence (ready := ready) ..),
    stepBulkRead_inSequence (ready := ready) (geometry := granule_not _)]
  rfl

/-- SA after the bulk read: all its 0x1000 words are of the granules' answers, in order (R251). -/
theorem unlocked_areaWord (gen : BitVec 1) (base : Table) (s : State) {i : Nat} (hi : i < 0x1000) :
    areaWord (unlocked gen base s).area i = .holding (byteWord
      ((s.env.afterDraws 7).replyAt (activationReplies s + 3 + i / (sequenceGranule s / 4)) (sequenceGranule s))
      (i % (sequenceGranule s / 4))) := by
  obtain ⟨m, words, four, whole⟩ :
      ∃ m, 0 < m ∧ sequenceGranule s = 4 * m ∧ 0x4000 / sequenceGranule s * m = 0x1000 := by
    unfold sequenceGranule
    split
    · exact ⟨0x80, by decide, rfl, rfl⟩
    · exact ⟨0x400, by decide, rfl, rfl⟩
  have filled := areaWord_granulesArea words hi (0x4000 / sequenceGranule s) 0
    ((s.env.afterDraws 7).afterReplies (activationReplies s + 3)) s.area (by omega)
  rw [← four, whole, if_pos (by omega), Nat.sub_zero, Env.replyAt_afterReplies] at filled
  have quarter : sequenceGranule s / 4 = m := by rw [four, Nat.mul_div_cancel_left m (by decide)]
  rw [quarter, ← filled]
  rfl

/-- Settles O49. -/
theorem ntrUnlockReachesReading : Obligations.NtrUnlockReachesReading := by
  intro gen base s raw supplied prompt gamecode timing seedidx idword onlyReads activateSec secureChipid dataMode
  have ready : s.Unlockable :=
    ⟨prompt, gamecode, timing, seedidx, idword, onlyReads, activateSec, secureChipid, dataMode⟩
  have run : exec (.ntrUnlock gen) s = .next ((unlocked gen base s).setResponse (some .done)) :=
    (exec_ntrUnlock raw supplied).trans (perform_ok (Op.bind_ok (ntrUnlock_answers gen base ready)))
  refine ⟨_, run, ?calls, rfl, rfl, rfl, rfl, rfl, rfl, rfl, rfl, rfl, rfl, rfl,
    fun i hi => unlocked_areaWord gen base s hi, rfl, rfl, rfl, rfl, rfl, rfl, rfl, rfl, rfl⟩
  case calls =>
    have chained (calls granules : List EnvCall) (chipid dataMode validation : EnvCall) :
        calls ++ [chipid] ++ [dataMode] ++ [validation] ++ granules =
          calls ++ [chipid, dataMode, validation] ++ granules := by
      rw [List.append_assoc calls, List.append_assoc calls]
      rfl
    exact chained ..

end Sys2Proof.Machine
end

section
/-! PROOFS. The external reset (60_exceptions.md R281, 70_reset_and_hazards.md R310, R311): it alone ends a hang, and in
the middle of an operation it finds what was done so far. A CTR.XFER to an aligned destination that it cuts has made its
two calls and stored the words counted until then (45_ctr_transport.md R215, R216; log 25). -/

namespace Sys2Proof.Machine

/-- Settles O9: in a hang the block fetches no event but a reset. -/
theorem hangEndsOnlyByReset : Obligations.HangEndsOnlyByReset := fun _ _ => step_hung

/-- A reset in the middle of an operation keeps the parameters and takes back no call. -/
theorem cutShort_keeps_outside (o : Operation) (n : Nat) (e : Env) (s : State) :
    (cutShort o n e s).cfg = s.cfg ∧ s.trace <+: (cutShort o n e s).trace := by
  refine reached_of (P := fun t => t.cfg = s.cfg ∧ s.trace <+: t.trace) ⟨rfl, List.prefix_rfl⟩ fun t next => ?_
  have grown : Accumulates (s.setResetIn (some n)) t :=
    accumulates_closed.runOperation (fun _ => writes_of_kindRespects fun _ _ _ _ => accumulates_wrote) next
  exact ⟨(runOperation_keeps_outside next).1, grown.trace⟩

/-- Each call brings the reset one effect nearer. -/
theorem call_nearing (c : EnvCall) {n : Nat} {s : State} (due : s.resetIn = some (n + 1)) :
    call c s = .ok () ((s.setResetIn (some n)).setTrace (s.trace ++ [c])) := by
  unfold call effect
  rw [due]
  rfl

/-- A transfer makes its two calls before a reset that comes later, then runs. -/
theorem transfer_nearing (c : Quad) (pagesize blocks : Word) (sink : Sink) {k : Nat} {s : State}
    (due : s.resetIn = some (k + 2)) :
    transfer c pagesize blocks sink s = transferBody sink (started c pagesize blocks (s.setResetIn (some k))) := by
  unfold transfer
  rw [Op.bind_ok (change_apply _ _),
    Op.bind_ok (call_nearing (s := s.setTransport (transferRegs s.cfg c pagesize blocks)) _ due),
    Op.bind_ok (peek_apply _ _), Op.bind_ok (call_nearing (n := k) _ ?nearer)]
  case nearer => rfl
  simp only [State.setTrace_trace, List.append_assoc]
  rfl

/-- The loop of a transfer that would pop more than `k` words, with its sample before, the reset coming after `k`
stores: it ends there. -/
theorem runPollLoop_cut (c : Quad) {pagesize blocks dest : Word} {k : Nat} {s : State}
    (aligned : dest.extractLsb' 0 2 = 0) (unbounded : s.cfg.pollBound = none) (ends : s.env.statusRest = ⟨false, true⟩)
    (fits : transferLength pagesize blocks < 2 ^ 32) (due : s.resetIn = some k)
    (more : k < transferPops s.env.status (transferLength pagesize blocks / 4)) :
    ∃ t, runPollLoop (.memory dest) (started c pagesize blocks s) = .error .reset t ∧
      CutAt dest k (started c pagesize blocks s) t := by
  have length := started_length (c := c) fits s
  have mod := transferLength_mod pagesize blocks
  cases samples : s.env.status with
  | nil =>
    rw [samples] at more
    exact absurd more (Nat.not_lt_zero k)
  | cons x xs =>
    rw [samples] at more
    obtain ⟨latest, left⟩ := Env.sample_cons samples
    have sampled : sampleStatus .pollLoop 0 (started c pagesize blocks s) =
        .ok x ((started c pagesize blocks s).setEnv (s.env.withStatus xs)) := by
      rw [← latest, ← left]
      exact sampleStatus_unbounded (s := started c pagesize blocks s) unbounded .pollLoop 0
    obtain ⟨t, cut, mem, kept⟩ := pollLoop_cut aligned
      (pollFuel ((started c pagesize blocks s).setEnv (s.env.withStatus xs))) x 1 none
      ((started c pagesize blocks s).setEnv (s.env.withStatus xs)) k unbounded ends due rfl
      (by rw [State.setEnv_transport, length]; exact mod)
      (by simp only [pollFuel, State.setEnv_env, Env.withStatus_status]; split <;> omega)
      (by rw [State.setEnv_transport, length]; exact more)
    exact ⟨t, (Op.bind_ok sampled).trans ((Op.bind_ok (peek_apply _ _)).trans cut),
      mem.trans (memAfter_status ..), kept⟩

/-- A CTR.XFER that is cut after its two calls and `k` of its stores. -/
theorem exec_ctrXfer_cut {c0 c1 c2 c3 pagesize blocks dest : Word} {k : Nat} {s : State}
    (aligned : dest.extractLsb' 0 2 = 0) (unbounded : s.cfg.pollBound = none) (ends : s.env.statusRest = ⟨false, true⟩)
    (fits : transferLength pagesize blocks < 2 ^ 32) (due : s.resetIn = some (k + 2))
    (more : k < transferPops s.env.status (transferLength pagesize blocks / 4)) :
    ∃ t, exec (.ctrXfer c0 c1 c2 c3 pagesize blocks 1 dest) s = .next t ∧
      t.mem = memAfter (.memory dest) s.mem 0 s.env k ∧ t.dev = s.dev ∧
      t.trace = s.trace ++ startCalls s.cfg ⟨c0, c1, c2, c3⟩ pagesize blocks := by
  obtain ⟨t, loop, mem, -, dev, trace⟩ := runPollLoop_cut ⟨c0, c1, c2, c3⟩ (s := s.setResetIn (some k)) aligned unbounded
    ends fits rfl more
  have run : transferOp ⟨c0, c1, c2, c3⟩ pagesize blocks (sinkOf 1 dest) s = .error .reset t :=
    Op.bind_error ((transfer_nearing _ _ _ _ due).trans (Op.bind_error loop))
  exact ⟨_, (xferRequest_fits fits _ _ s).trans (perform_error run), mem, dev, trace⟩

/-- Settles O8: a reset in the middle of an operation is the reset event of the state where the operation stopped. -/
theorem resetKeepsParametersAndOutside : Obligations.ResetKeepsParametersAndOutside := by
  intro s e rest
  refine ⟨fun inbox => ?reset, fun o n hung inbox => ?cut,
    fun r k c0 c1 c2 c3 pagesize blocks dest hung inbox read unbounded ends aligned
      (fits : transferLength pagesize blocks < 2 ^ 32)
      (more : k < transferPops s.env.status (transferLength pagesize blocks / 4)) => ?transfer⟩
  case reset => exact ⟨_, step_reset inbox, rfl, rfl, rfl, rfl, rfl⟩
  case cut =>
    obtain ⟨cfg, trace⟩ := cutShort_keeps_outside o n e (s.setInbox rest)
    exact ⟨_, step_cut hung inbox, cfg, trace, _, rfl⟩
  case transfer =>
    obtain ⟨t, run, mem, dev, trace⟩ := exec_ctrXfer_cut (c0 := c0) (c1 := c1) (c2 := c2) (c3 := c3)
      (s := (s.setInbox rest).setResetIn (some (k + 2))) aligned unbounded ends fits rfl more
    have carried : runOperation (.request r) ((s.setInbox rest).setResetIn (some (k + 2))) = .next t := by
      rw [runOperation, readRequest, read]
      exact run
    have stepped : step s = .next (resetEvent e t) := by
      rw [step_cut hung inbox, cutShort, carried]
      rfl
    have within : 4 * k ≤ 2 ^ 32 := by
      have popped := transferPops_le s.env.status (transferLength pagesize blocks / 4)
      omega
    refine ⟨_, stepped, rfl, dev, trace, fun a => ?_⟩
    exact (congrArg (Memory.read · a) mem).trans (read_memAfter dest s.mem s.env within a)

end Sys2Proof.Machine
end
